-- ==== Sys2Proof/Word.lean ====
section
/-! DEFINITION. The word types of the CPU12: 8-bit bytes and 16-bit words (spec R5, R50). -/

namespace Sys2Proof

/-- An 8-bit byte: a memory cell, A, B, CCR, an opcode, a mask (R5, R50). -/
abbrev Byte := BitVec 8

/-- A 16-bit word: D, X, Y, SP, PC, an address, a 16-bit operand (R5). -/
abbrev Word := BitVec 16

end Sys2Proof
end

