-- ==== Sys2Proof/Machine/Bits.lean ====
section
/-! DEFINITION. Byte order and extension of values: the helpers that the decoder, the encoder and the
machine share. -/

namespace Sys2Proof

/-- A word from its two bytes, big-endian (R51): `hi` is bits 15 to 8, the byte at the lower address. -/
def mkWord (hi lo : Byte) : Word := hi ++ lo

/-- Bits 15 to 8 of a word, the byte at the lower address (R51). -/
def hiByte (w : Word) : Byte := w.extractLsb' 8 8

/-- Bits 7 to 0 of a word, the byte at the higher address (R51). -/
def loByte (w : Word) : Byte := w.extractLsb' 0 8

/-- `sext_16` (R9): the two's-complement value extended to 16 bits by copying its top bit. -/
def sext16 {n : Nat} (v : BitVec n) : Word := v.signExtend 16

/-- `zext_16` (R9): the value extended to 16 bits with zeros. -/
def zext16 {n : Nat} (v : BitVec n) : Word := v.setWidth 16

end Sys2Proof
end

