-- ==== Sys2Proof/Syntax.lean ====
section
/-! DEFINITION. The decoded instructions of the CPU12 (spec R2, R3, R12): one constructor of `Instr`
for each of the 176 mnemonics of spec/opcode_table.json. A row of that table is a mnemonic in one
format; the format is the form of the constructor's operand. -/

namespace Sys2Proof

/-- The 8-bit registers that TFR, EXG and SEX name (R90, R150, R164). -/
inductive Reg8 where
  | a | b | ccr
  deriving DecidableEq, Repr

/-- The 16-bit registers that TFR, EXG and SEX name (R90, R150, R164). -/
inductive Reg16 where
  | d | x | y | sp
  deriving DecidableEq, Repr

/-- An operand of TFR or EXG: "A, B, CCR, D, X, Y, or SP" (R150). -/
inductive Reg where
  | r8 (r : Reg8)
  | r16 (r : Reg16)
  deriving DecidableEq, Repr

/-- The counter of a loop primitive (R91, R342). -/
inductive Counter where
  | a | b | d | x | y | sp
  deriving DecidableEq, Repr

/-- The base register of an indexed operand (R81). -/
inductive IdxBase where
  | x | y | sp | pc
  deriving DecidableEq, Repr

/-- The base registers that an indexed operand can increment or decrement (R83). -/
inductive AutoBase where
  | x | y | sp
  deriving DecidableEq, Repr

/-- The accumulator of an accumulator-offset operand (R84). -/
inductive AccOffset where
  | a | b | d
  deriving DecidableEq, Repr

/-- An indexed operand, one constructor for each sub-form of the postbyte (R82 to R88). -/
inductive Idx where
  /-- `rr0nnnnn`: 5-bit signed constant offset (R82). -/
  | off5 (r : IdxBase) (n : BitVec 5)
  /-- `rr1pnnnn`: automatic pre (`post = false`) or post increment or decrement (R83). -/
  | auto (r : AutoBase) (post : Bool) (nnnn : BitVec 4)
  /-- `111rr00s ff`: 9-bit signed constant offset (R86). -/
  | off9 (r : IdxBase) (n : BitVec 9)
  /-- `111rr010 ee ff`: 16-bit constant offset (R86). -/
  | off16 (r : IdxBase) (n : Word)
  /-- `111rr011 ee ff`: 16-bit offset indirect (R87). -/
  | ind16 (r : IdxBase) (n : Word)
  /-- `111rr1aa`: accumulator offset (R84). -/
  | acc (r : IdxBase) (o : AccOffset)
  /-- `111rr111`: D offset indirect (R85). -/
  | indD (r : IdxBase)
  deriving DecidableEq, Repr

/-- The classes of indexed sub-forms that instructions accept (R89). -/
inductive IdxClass where
  /-- IDX-all: every sub-form. -/
  | all
  /-- IDX-noind: no indirect sub-form. -/
  | noind
  /-- IDX-short: no extension byte and no indirect sub-form. -/
  | short
  deriving DecidableEq, Repr

/-- A memory operand in direct, extended or indexed form (R12: DIR, EXT, IDX). -/
inductive Mem where
  | dir (dd : Byte)
  | ext (hhll : Word)
  | idx (x : Idx)
  deriving DecidableEq, Repr

/-- A memory operand of the read-modify-write group, which has no direct form (R220, R250, R271,
R370, R387: EXT and IDX only). -/
inductive MemX where
  | ext (hhll : Word)
  | idx (x : Idx)
  deriving DecidableEq, Repr

/-- A source operand of width `w` (R12: IMM, DIR, EXT, IDX). -/
inductive Opr (w : Nat) where
  | imm (v : BitVec w)
  | mem (m : Mem)
  deriving DecidableEq, Repr

/-- The six operand combinations of MOVB (`w = 8`) and MOVW (`w = 16`) (R74, R93, R165). -/
inductive Mov (w : Nat) where
  /-- MOV-IM-ID: immediate to indexed. -/
  | imId (v : BitVec w) (dst : Idx)
  /-- MOV-EX-ID: extended to indexed. -/
  | exId (src : Word) (dst : Idx)
  /-- MOV-ID-ID: indexed to indexed. -/
  | idId (src dst : Idx)
  /-- MOV-IM-EX: immediate to extended. -/
  | imEx (v : BitVec w) (dst : Word)
  /-- MOV-EX-EX: extended to extended. -/
  | exEx (src dst : Word)
  /-- MOV-ID-EX: indexed to extended. -/
  | idEx (src : Idx) (dst : Word)
  deriving DecidableEq, Repr

/-- The instructions: every mnemonic of spec/opcode_table.json, with the rule that states its
meaning. -/
inductive Instr where
  -- Load, load effective address, store (40_load_store.md)
  /-- LDAA (R121). -/
  | ldaa (o : Opr 8)
  /-- LDAB (R122). -/
  | ldab (o : Opr 8)
  /-- LDD (R123). -/
  | ldd (o : Opr 16)
  /-- LDS (R124). -/
  | lds (o : Opr 16)
  /-- LDX (R125). -/
  | ldx (o : Opr 16)
  /-- LDY (R126). -/
  | ldy (o : Opr 16)
  /-- LEAS (R128). -/
  | leas (x : Idx)
  /-- LEAX (R129). -/
  | leax (x : Idx)
  /-- LEAY (R130). -/
  | leay (x : Idx)
  /-- STAA (R132). -/
  | staa (m : Mem)
  /-- STAB (R133). -/
  | stab (m : Mem)
  /-- STD (R134). -/
  | std (m : Mem)
  /-- STS (R135). -/
  | sts (m : Mem)
  /-- STX (R136). -/
  | stx (m : Mem)
  /-- STY (R137). -/
  | sty (m : Mem)
  -- Transfer, exchange, sign-extend, move, stack (41_transfer_move_stack.md)
  /-- TAB (R151). -/
  | tab
  /-- TAP (R152). -/
  | tap
  /-- TBA (R153). -/
  | tba
  /-- TFR (R154). -/
  | tfr (r R : Reg)
  /-- TPA (R155). -/
  | tpa
  /-- TSX (R156). -/
  | tsx
  /-- TSY (R157). -/
  | tsy
  /-- TXS (R158). -/
  | txs
  /-- TYS (R159). -/
  | tys
  /-- EXG (R160). -/
  | exg (r R : Reg)
  /-- XGDX (R162). -/
  | xgdx
  /-- XGDY (R163). -/
  | xgdy
  /-- SEX (R164). -/
  | sex (r : Reg8) (R : Reg16)
  /-- MOVB (R166). -/
  | movb (m : Mov 8)
  /-- MOVW (R167). -/
  | movw (m : Mov 16)
  /-- PSHA (R169). -/
  | psha
  /-- PSHB (R170). -/
  | pshb
  /-- PSHC (R171). -/
  | pshc
  /-- PSHD (R172). -/
  | pshd
  /-- PSHX (R173). -/
  | pshx
  /-- PSHY (R174). -/
  | pshy
  /-- PULA (R175). -/
  | pula
  /-- PULB (R176). -/
  | pulb
  /-- PULC (R177). -/
  | pulc
  /-- PULD (R178). -/
  | puld
  /-- PULX (R179). -/
  | pulx
  /-- PULY (R180). -/
  | puly
  -- Add, subtract, decimal adjust, increment, decrement (42_add_sub_incdec.md)
  /-- ABA (R201). -/
  | aba
  /-- ABX (R203). -/
  | abx
  /-- ABY (R204). -/
  | aby
  /-- ADCA (R205). -/
  | adca (o : Opr 8)
  /-- ADCB (R206). -/
  | adcb (o : Opr 8)
  /-- ADDA (R207). -/
  | adda (o : Opr 8)
  /-- ADDB (R208). -/
  | addb (o : Opr 8)
  /-- ADDD (R209). -/
  | addd (o : Opr 16)
  /-- SBA (R210). -/
  | sba
  /-- SBCA (R211). -/
  | sbca (o : Opr 8)
  /-- SBCB (R212). -/
  | sbcb (o : Opr 8)
  /-- SUBA (R213). -/
  | suba (o : Opr 8)
  /-- SUBB (R214). -/
  | subb (o : Opr 8)
  /-- SUBD (R215). -/
  | subd (o : Opr 16)
  /-- DAA (R216). -/
  | daa
  /-- DEC (R221). -/
  | dec (m : MemX)
  /-- DECA (R222). -/
  | deca
  /-- DECB (R223). -/
  | decb
  /-- DES (R224). -/
  | des
  /-- DEX (R225). -/
  | dex
  /-- DEY (R226). -/
  | dey
  /-- INC (R227). -/
  | inc (m : MemX)
  /-- INCA (R228). -/
  | inca
  /-- INCB (R229). -/
  | incb
  /-- INS (R230). -/
  | ins
  /-- INX (R231). -/
  | inx
  /-- INY (R232). -/
  | iny
  -- Compare, test, multiply, divide, clear, complement, negate (43_cmp_mul_div_clr.md)
  /-- CBA (R251). -/
  | cba
  /-- CMPA (R252). -/
  | cmpa (o : Opr 8)
  /-- CMPB (R253). -/
  | cmpb (o : Opr 8)
  /-- CPD (R254). -/
  | cpd (o : Opr 16)
  /-- CPS (R255). -/
  | cps (o : Opr 16)
  /-- CPX (R256). -/
  | cpx (o : Opr 16)
  /-- CPY (R257). -/
  | cpy (o : Opr 16)
  /-- TST (R258). -/
  | tst (m : MemX)
  /-- TSTA (R259). -/
  | tsta
  /-- TSTB (R260). -/
  | tstb
  /-- EMUL (R262). -/
  | emul
  /-- EMULS (R263). -/
  | emuls
  /-- MUL (R264). -/
  | mul
  /-- EDIV (R266). -/
  | ediv
  /-- EDIVS (R267). -/
  | edivs
  /-- FDIV (R268). -/
  | fdiv
  /-- IDIV (R269). -/
  | idiv
  /-- IDIVS (R270). -/
  | idivs
  /-- CLC (R272). -/
  | clc
  /-- CLI (R273). -/
  | cli
  /-- CLR (R274). -/
  | clr (m : MemX)
  /-- CLRA (R275). -/
  | clra
  /-- CLRB (R276). -/
  | clrb
  /-- CLV (R277). -/
  | clv
  /-- COM (R278). -/
  | com (m : MemX)
  /-- COMA (R279). -/
  | coma
  /-- COMB (R280). -/
  | comb
  /-- NEG (R281). -/
  | neg (m : MemX)
  /-- NEGA (R282). -/
  | nega
  /-- NEGB (R283). -/
  | negb
  -- Branches, bit-condition branches, loop primitives (44_branch.md)
  /-- BRA (R303). -/
  | bra (rr : Byte)
  /-- BRN (R304). -/
  | brn (rr : Byte)
  /-- BCC (R305). -/
  | bcc (rr : Byte)
  /-- BCS (R306). -/
  | bcs (rr : Byte)
  /-- BEQ (R307). -/
  | beq (rr : Byte)
  /-- BMI (R308). -/
  | bmi (rr : Byte)
  /-- BNE (R309). -/
  | bne (rr : Byte)
  /-- BPL (R310). -/
  | bpl (rr : Byte)
  /-- BVC (R311). -/
  | bvc (rr : Byte)
  /-- BVS (R312). -/
  | bvs (rr : Byte)
  /-- BHI (R313). -/
  | bhi (rr : Byte)
  /-- BHS (R314). -/
  | bhs (rr : Byte)
  /-- BLO (R315). -/
  | blo (rr : Byte)
  /-- BLS (R316). -/
  | bls (rr : Byte)
  /-- BGE (R317). -/
  | bge (rr : Byte)
  /-- BGT (R318). -/
  | bgt (rr : Byte)
  /-- BLE (R319). -/
  | ble (rr : Byte)
  /-- BLT (R320). -/
  | blt (rr : Byte)
  /-- LBRA (R321). -/
  | lbra (qr : Word)
  /-- LBRN (R322). -/
  | lbrn (qr : Word)
  /-- LBCC (R323). -/
  | lbcc (qr : Word)
  /-- LBCS (R324). -/
  | lbcs (qr : Word)
  /-- LBEQ (R325). -/
  | lbeq (qr : Word)
  /-- LBMI (R326). -/
  | lbmi (qr : Word)
  /-- LBNE (R327). -/
  | lbne (qr : Word)
  /-- LBPL (R328). -/
  | lbpl (qr : Word)
  /-- LBVC (R329). -/
  | lbvc (qr : Word)
  /-- LBVS (R330). -/
  | lbvs (qr : Word)
  /-- LBHI (R331). -/
  | lbhi (qr : Word)
  /-- LBHS (R332). -/
  | lbhs (qr : Word)
  /-- LBLO (R333). -/
  | lblo (qr : Word)
  /-- LBLS (R334). -/
  | lbls (qr : Word)
  /-- LBGE (R335). -/
  | lbge (qr : Word)
  /-- LBGT (R336). -/
  | lbgt (qr : Word)
  /-- LBLE (R337). -/
  | lble (qr : Word)
  /-- LBLT (R338). -/
  | lblt (qr : Word)
  /-- BRCLR (R340). -/
  | brclr (m : Mem) (mm rr : Byte)
  /-- BRSET (R341). -/
  | brset (m : Mem) (mm rr : Byte)
  /-- DBEQ (R343). -/
  | dbeq (c : Counter) (rel : BitVec 9)
  /-- DBNE (R344). -/
  | dbne (c : Counter) (rel : BitVec 9)
  /-- IBEQ (R345). -/
  | ibeq (c : Counter) (rel : BitVec 9)
  /-- IBNE (R346). -/
  | ibne (c : Counter) (rel : BitVec 9)
  /-- TBEQ (R347). -/
  | tbeq (c : Counter) (rel : BitVec 9)
  /-- TBNE (R348). -/
  | tbne (c : Counter) (rel : BitVec 9)
  -- Logic and bit instructions (45_logic_bit.md)
  /-- ANDA (R351). -/
  | anda (o : Opr 8)
  /-- ANDB (R352). -/
  | andb (o : Opr 8)
  /-- ANDCC (R353). -/
  | andcc (ii : Byte)
  /-- EORA (R354). -/
  | eora (o : Opr 8)
  /-- EORB (R355). -/
  | eorb (o : Opr 8)
  /-- ORAA (R356). -/
  | oraa (o : Opr 8)
  /-- ORAB (R357). -/
  | orab (o : Opr 8)
  /-- ORCC (R358). -/
  | orcc (ii : Byte)
  /-- BCLR (R361). -/
  | bclr (m : Mem) (mm : Byte)
  /-- BITA (R362). -/
  | bita (o : Opr 8)
  /-- BITB (R363). -/
  | bitb (o : Opr 8)
  /-- BSET (R364). -/
  | bset (m : Mem) (mm : Byte)
  -- Shifts and rotates (46_shift_rotate.md)
  /-- LSL (R372). -/
  | lsl (m : MemX)
  /-- LSLA (R373). -/
  | lsla
  /-- LSLB (R374). -/
  | lslb
  /-- LSLD (R375). -/
  | lsld
  /-- LSR (R376). -/
  | lsr (m : MemX)
  /-- LSRA (R377). -/
  | lsra
  /-- LSRB (R378). -/
  | lsrb
  /-- LSRD (R379). -/
  | lsrd
  /-- ASL (R380). -/
  | asl (m : MemX)
  /-- ASLA (R381). -/
  | asla
  /-- ASLB (R382). -/
  | aslb
  /-- ASLD (R383). -/
  | asld
  /-- ASR (R384). -/
  | asr (m : MemX)
  /-- ASRA (R385). -/
  | asra
  /-- ASRB (R386). -/
  | asrb
  /-- ROL (R388). -/
  | rol (m : MemX)
  /-- ROLA (R389). -/
  | rola
  /-- ROLB (R390). -/
  | rolb
  /-- ROR (R391). -/
  | ror (m : MemX)
  /-- RORA (R392). -/
  | rora
  /-- RORB (R393). -/
  | rorb
  deriving DecidableEq, Repr

/-- Why a byte sequence is not an instruction of this spec (R97, decision D13). -/
inductive DecodeError where
  /-- The bytes given end inside the instruction. -/
  | truncated
  /-- A CPU12 instruction that the spec names and leaves out of scope (R4, R94, R95). -/
  | outOfScope (mnemonic : String)
  /-- A page-2 opcode that is no instruction, an unimplemented-opcode trap on the hardware (R401). -/
  | unimplemented (opcode : Byte)
  /-- A transfer postbyte with bit 3 set or with register code 011 (R90, R97 (c)). -/
  | transferPostbyte (eb : Byte)
  /-- An exchange between an 8-bit and a 16-bit register (R161, R97 (d)). -/
  | exchangeWidths (eb : Byte)
  /-- A loop postbyte with kkk 110 or 111, bit 3 set, or ccc 010 or 011 (R91, R97 (c)). -/
  | loopPostbyte (lb : Byte)
  /-- An indexed sub-form outside the class that the instruction accepts (R89, R97 (c)). -/
  | indexedSubform (x : Idx)
  deriving DecidableEq, Repr

end Sys2Proof
end

