-- ==== Sys2Proof/Machine/Forms.lean ====
section
/-! DEFINITION. The operand forms: which indexed sub-forms an instruction accepts (R89), which register
pairs exchange (R160), how many bytes an operand takes (R74, R88). -/

namespace Sys2Proof

/-- The number of extension bytes after the postbyte (R88, column `ext`). -/
def Idx.ext : Idx → Nat
  | .off5 _ _ => 0
  | .auto _ _ _ => 0
  | .off9 _ _ => 1
  | .off16 _ _ => 2
  | .ind16 _ _ => 2
  | .acc _ _ => 0
  | .indD _ => 0

/-- The indirect sub-forms (R85, R87). -/
def Idx.indirect : Idx → Bool
  | .off5 _ _ => false
  | .auto _ _ _ => false
  | .off9 _ _ => false
  | .off16 _ _ => false
  | .ind16 _ _ => true
  | .acc _ _ => false
  | .indD _ => true

/-- Whether a class of instructions accepts the sub-form (R89). -/
def Idx.inClass (c : IdxClass) (x : Idx) : Bool :=
  match c with
  | .all => true
  | .noind => !x.indirect
  | .short => !x.indirect && x.ext == 0

/-- Whether a class accepts the memory operand (R89): direct and extended forms always. -/
def Mem.inClass (c : IdxClass) : Mem → Bool
  | .dir _ => true
  | .ext _ => true
  | .idx x => x.inClass c

/-- Whether the indexed operands of a move are of class IDX-short (R89, R93). -/
def Mov.inClass {w : Nat} : Mov w → Bool
  | .imId _ dst => dst.inClass .short
  | .exId _ dst => dst.inClass .short
  | .idId src dst => src.inClass .short && dst.inClass .short
  | .imEx _ _ => true
  | .exEx _ _ => true
  | .idEx src _ => src.inClass .short

/-- Whether two registers have the same width (R160, R161). -/
def Reg.sameWidth : Reg → Reg → Bool
  | .r8 _, .r8 _ => true
  | .r16 _, .r16 _ => true
  | .r8 _, .r16 _ => false
  | .r16 _, .r8 _ => false

/-- The bytes of an indexed operand: the postbyte and its extension bytes (R88). -/
def Idx.length (x : Idx) : Nat := 1 + x.ext

/-- The bytes of a memory operand (R74: DIR, EXT, IDX). -/
def Mem.length : Mem → Nat
  | .dir _ => 1
  | .ext _ => 2
  | .idx x => x.length

/-- The same operand among those that have a direct form as well. -/
def MemX.toMem : MemX → Mem
  | .ext a => .ext a
  | .idx x => .idx x

/-- The bytes of a source operand (R74: IMM8, IMM16, DIR, EXT, IDX). -/
def Opr.length {w : Nat} : Opr w → Nat
  | .imm _ => w / 8
  | .mem m => m.length

/-- The bytes of a move's operands (R74, formats MOV-*). -/
def Mov.length {w : Nat} : Mov w → Nat
  | .imId _ dst => dst.length + w / 8
  | .exId _ dst => dst.length + 2
  | .idId src dst => src.length + dst.length
  | .imEx _ _ => w / 8 + 2
  | .exEx _ _ => 4
  | .idEx src _ => src.length + 2

/-- The source of a move (R165): an immediate, or an operand in memory, which is EXT or IDX. -/
def Mov.source {w : Nat} : Mov w → BitVec w ⊕ MemX
  | .imId v _ => .inl v
  | .exId a _ => .inr (.ext a)
  | .idId x _ => .inr (.idx x)
  | .imEx v _ => .inl v
  | .exEx a _ => .inr (.ext a)
  | .idEx x _ => .inr (.idx x)

/-- The destination of a move (R165). -/
def Mov.dest {w : Nat} : Mov w → MemX
  | .imId _ y => .idx y
  | .exId _ y => .idx y
  | .idId _ y => .idx y
  | .imEx _ b => .ext b
  | .exEx _ b => .ext b
  | .idEx _ b => .ext b

/-- The base register that an operand increments or decrements, if it does (R83). -/
def Mem.autoBase : Mem → Option AutoBase
  | .idx (.auto r _ _) => some r
  | .idx (.off5 _ _) => none
  | .idx (.off9 _ _) => none
  | .idx (.off16 _ _) => none
  | .idx (.ind16 _ _) => none
  | .idx (.acc _ _) => none
  | .idx (.indD _) => none
  | .dir _ => none
  | .ext _ => none

/-- The base register that a source operand increments or decrements, if it does (R83). -/
def Opr.autoBase {w : Nat} : Opr w → Option AutoBase
  | .imm _ => none
  | .mem m => m.autoBase

/-- The base register that a move's source increments or decrements, if it does (R83). -/
def Mov.sourceAuto {w : Nat} (m : Mov w) : Option AutoBase :=
  match m.source with
  | .inl _ => none
  | .inr x => x.toMem.autoBase

/-- The base register that a move's destination increments or decrements, if it does (R83). -/
def Mov.destAuto {w : Nat} (m : Mov w) : Option AutoBase := m.dest.toMem.autoBase

/-- The checks of `Instr.WellFormed`: the sub-form classes of LEAr, BSET, BCLR, BRSET, BRCLR and the
moves (R89), and the equal widths of an exchange (R160, R161). -/
def Instr.formsOk : Instr → Bool
  | .leas x | .leax x | .leay x => x.inClass .noind
  | .bset m _ | .bclr m _ => m.inClass .noind
  | .brset m _ _ | .brclr m _ _ => m.inClass .noind
  | .movb m => m.inClass
  | .movw m => m.inClass
  | .exg r R => r.sameWidth R
  | .ldaa _ | .ldab _ | .ldd _ | .lds _ | .ldx _ | .ldy _ | .staa _ | .stab _ | .std _ | .sts _
  | .stx _ | .sty _
  | .tab | .tap | .tba | .tfr _ _ | .tpa | .tsx | .tsy | .txs | .tys | .xgdx | .xgdy | .sex _ _
  | .psha | .pshb | .pshc | .pshd | .pshx | .pshy | .pula | .pulb | .pulc | .puld | .pulx | .puly
  | .aba | .abx | .aby | .adca _ | .adcb _ | .adda _ | .addb _ | .addd _ | .sba | .sbca _
  | .sbcb _ | .suba _ | .subb _ | .subd _ | .daa | .dec _ | .deca | .decb | .des | .dex | .dey
  | .inc _ | .inca | .incb | .ins | .inx | .iny
  | .cba | .cmpa _ | .cmpb _ | .cpd _ | .cps _ | .cpx _ | .cpy _ | .tst _ | .tsta | .tstb | .emul
  | .emuls | .mul | .ediv | .edivs | .fdiv | .idiv | .idivs | .clc | .cli | .clr _ | .clra
  | .clrb | .clv | .com _ | .coma | .comb | .neg _ | .nega | .negb
  | .bra _ | .brn _ | .bcc _ | .bcs _ | .beq _ | .bmi _ | .bne _ | .bpl _ | .bvc _ | .bvs _
  | .bhi _ | .bhs _ | .blo _ | .bls _ | .bge _ | .bgt _ | .ble _ | .blt _ | .lbra _ | .lbrn _
  | .lbcc _ | .lbcs _ | .lbeq _ | .lbmi _ | .lbne _ | .lbpl _ | .lbvc _ | .lbvs _ | .lbhi _
  | .lbhs _ | .lblo _ | .lbls _ | .lbge _ | .lbgt _ | .lble _ | .lblt _ | .dbeq _ _ | .dbne _ _
  | .ibeq _ _ | .ibne _ _ | .tbeq _ _ | .tbne _ _
  | .anda _ | .andb _ | .andcc _ | .eora _ | .eorb _ | .oraa _ | .orab _ | .orcc _ | .bita _
  | .bitb _
  | .lsl _ | .lsla | .lslb | .lsld | .lsr _ | .lsra | .lsrb | .lsrd | .asl _ | .asla | .aslb
  | .asld | .asr _ | .asra | .asrb | .rol _ | .rola | .rolb | .ror _ | .rora | .rorb => true

end Sys2Proof
end

