-- ==== Sys2Proof/WellFormed.lean ====
section
/-! DEFINITION. Which terms of `Instr` are instructions of the CPU12: those that have an encoding in this
spec. The types of Syntax.lean already exclude an immediate destination, a direct form of the
read-modify-write group, a PC base that increments, and the register codes 011. -/

namespace Sys2Proof

/-- An instruction that the spec gives an encoding: its indexed operands are of the class it accepts
(R89) and an exchange names registers of one width (R160). -/
abbrev Instr.WellFormed (i : Instr) : Prop := i.formsOk = true

end Sys2Proof
end

