-- ==== Sys2Proof/Decode.lean ====
section
/-! DEFINITION. The decoder, total on any bytes and rejecting by name (R70 to R97), and the encoder,
written from the same tables. The opcode maps are the two grids of R94 and R95. -/

namespace Sys2Proof

/-- Reads a value from the front of a byte list and gives the rest of the list, or says why it
cannot. -/
abbrev Parser (α : Type) := List Byte → Except DecodeError (α × List Byte)

namespace Row

/-! ### Reading operand bytes -/

/-- Reads nothing. -/
def done {α : Type} (a : α) : Parser α := fun bs => .ok (a, bs)

/-- Rejects. -/
def reject {α : Type} (e : DecodeError) : Parser α := fun _ => .error e

/-- Reads with `p`, then with `q`. -/
def bind {α β : Type} (p : Parser α) (q : α → Parser β) : Parser β := fun bs =>
  match p bs with
  | .ok (a, rest) => q a rest
  | .error e => .error e

/-- One byte: `ii`, `dd`, `mm`, `rr` of R74. -/
def byte : Parser Byte
  | b :: rest => .ok (b, rest)
  | [] => .error .truncated

/-- Two bytes, the more significant first: `jj kk`, `hh ll`, `qq rr` of R74 (R71, R76, R79). -/
def word : Parser Word := bind byte fun hi => bind byte fun lo => done (mkWord hi lo)

/-- The base register codes of an indexed postbyte (R81). -/
def idxBase (rr : BitVec 2) : IdxBase :=
  match rr.toNat with
  | 0 => .x
  | 1 => .y
  | 2 => .sp
  | _ => .pc

/-- The base registers of the auto forms; `rr = 11` is none of them (R83). -/
def autoBase (rr : BitVec 2) : Option AutoBase :=
  match rr.toNat with
  | 0 => some .x
  | 1 => some .y
  | 2 => some .sp
  | _ => none

/-- The sub-forms `111rrxxx` (R84 to R88): `rr` the base code, `k` the low three bits. -/
def idx111 (rr : BitVec 2) (k : BitVec 3) : Parser Idx :=
  match k.toNat with
  | 0 => bind byte fun ff => done (.off9 (idxBase rr) (0#1 ++ ff))
  | 1 => bind byte fun ff => done (.off9 (idxBase rr) (1#1 ++ ff))
  | 2 => bind word fun eeff => done (.off16 (idxBase rr) eeff)
  | 3 => bind word fun eeff => done (.ind16 (idxBase rr) eeff)
  | 4 => done (.acc (idxBase rr) .a)
  | 5 => done (.acc (idxBase rr) .b)
  | 6 => done (.acc (idxBase rr) .d)
  | _ => done (.indD (idxBase rr))

/-- An indexed operand by its postbyte `xb` (R88). -/
def idxAny : Parser Idx :=
  bind byte fun xb =>
    if xb.getLsbD 5 = false then
      done (.off5 (idxBase (xb.extractLsb' 6 2)) (xb.extractLsb' 0 5))
    else
      match autoBase (xb.extractLsb' 6 2) with
      | some r => done (.auto r (xb.getLsbD 4) (xb.extractLsb' 0 4))
      | none => idx111 (xb.extractLsb' 3 2) (xb.extractLsb' 0 3)

/-- An indexed operand of a class; another sub-form is refused (R89). -/
def idx (c : IdxClass) : Parser Idx :=
  bind idxAny fun x => if x.inClass c then done x else reject (.indexedSubform x)

/-! ### The formats of R74 -/

/-- "x" in R94 and R95: an instruction outside the spec (R4, R97). -/
def outOfScope (mnemonic : String) : Parser Instr := reject (.outOfScope mnemonic)

/-- INH and INH2. -/
def inh (i : Instr) : Parser Instr := done i

/-- IMM8 of an instruction with further forms. -/
def imm8 (f : Opr 8 → Instr) : Parser Instr := bind byte fun ii => done (f (.imm ii))

/-- IMM16. -/
def imm16 (f : Opr 16 → Instr) : Parser Instr := bind word fun jjkk => done (f (.imm jjkk))

/-- DIR of an instruction with an immediate form. -/
def srcDir {w : Nat} (f : Opr w → Instr) : Parser Instr :=
  bind byte fun dd => done (f (.mem (.dir dd)))

/-- EXT of an instruction with an immediate form. -/
def srcExt {w : Nat} (f : Opr w → Instr) : Parser Instr :=
  bind word fun hhll => done (f (.mem (.ext hhll)))

/-- IDX of an instruction with an immediate form, class IDX-all. -/
def srcIdx {w : Nat} (f : Opr w → Instr) : Parser Instr :=
  bind (idx .all) fun x => done (f (.mem (.idx x)))

/-- DIR of a store. -/
def memDir (f : Mem → Instr) : Parser Instr := bind byte fun dd => done (f (.dir dd))

/-- EXT of a store. -/
def memExt (f : Mem → Instr) : Parser Instr := bind word fun hhll => done (f (.ext hhll))

/-- IDX of a store, class IDX-all. -/
def memIdx (f : Mem → Instr) : Parser Instr := bind (idx .all) fun x => done (f (.idx x))

/-- EXT of the read-modify-write group. -/
def rmwExt (f : MemX → Instr) : Parser Instr := bind word fun hhll => done (f (.ext hhll))

/-- IDX of the read-modify-write group, class IDX-all. -/
def rmwIdx (f : MemX → Instr) : Parser Instr := bind (idx .all) fun x => done (f (.idx x))

/-- IDX of LEAS, LEAX, LEAY, class IDX-noind. -/
def lea (f : Idx → Instr) : Parser Instr := bind (idx .noind) fun x => done (f x)

/-- IMM8 of ANDCC and ORCC. -/
def mask8 (f : Byte → Instr) : Parser Instr := bind byte fun ii => done (f ii)

/-- REL8. -/
def rel8 (f : Byte → Instr) : Parser Instr := bind byte fun rr => done (f rr)

/-- REL16. -/
def rel16 (f : Word → Instr) : Parser Instr := bind word fun qqrr => done (f qqrr)

/-- BM-DIR: `op dd mm`. -/
def bitDir (f : Mem → Byte → Instr) : Parser Instr :=
  bind byte fun dd => bind byte fun mm => done (f (.dir dd) mm)

/-- BM-EXT: `op hh ll mm`. -/
def bitExt (f : Mem → Byte → Instr) : Parser Instr :=
  bind word fun hhll => bind byte fun mm => done (f (.ext hhll) mm)

/-- BM-IDX: `op xb.. mm`, class IDX-noind. -/
def bitIdx (f : Mem → Byte → Instr) : Parser Instr :=
  bind (idx .noind) fun x => bind byte fun mm => done (f (.idx x) mm)

/-- BB-DIR: `op dd mm rr`. -/
def bitBranchDir (f : Mem → Byte → Byte → Instr) : Parser Instr :=
  bind byte fun dd => bind byte fun mm => bind byte fun rr => done (f (.dir dd) mm rr)

/-- BB-EXT: `op hh ll mm rr`. -/
def bitBranchExt (f : Mem → Byte → Byte → Instr) : Parser Instr :=
  bind word fun hhll => bind byte fun mm => bind byte fun rr => done (f (.ext hhll) mm rr)

/-- BB-IDX: `op xb.. mm rr`, class IDX-noind. -/
def bitBranchIdx (f : Mem → Byte → Byte → Instr) : Parser Instr :=
  bind (idx .noind) fun x => bind byte fun mm => bind byte fun rr => done (f (.idx x) mm rr)

/-- MOV-IM-ID: the postbyte, then the immediate (R93). -/
def movImId {w : Nat} (imm : Parser (BitVec w)) (f : Mov w → Instr) : Parser Instr :=
  bind (idx .short) fun x => bind imm fun v => done (f (.imId v x))

/-- MOV-EX-ID: the postbyte of the destination, then the address of the source (R93). -/
def movExId {w : Nat} (f : Mov w → Instr) : Parser Instr :=
  bind (idx .short) fun x => bind word fun a => done (f (.exId a x))

/-- MOV-ID-ID: the source's postbyte, then the destination's. -/
def movIdId {w : Nat} (f : Mov w → Instr) : Parser Instr :=
  bind (idx .short) fun x => bind (idx .short) fun y => done (f (.idId x y))

/-- MOV-IM-EX: the immediate, then the address of the destination. -/
def movImEx {w : Nat} (imm : Parser (BitVec w)) (f : Mov w → Instr) : Parser Instr :=
  bind imm fun v => bind word fun a => done (f (.imEx v a))

/-- MOV-EX-EX: the address of the source, then the address of the destination (R71). -/
def movExEx {w : Nat} (f : Mov w → Instr) : Parser Instr :=
  bind word fun a => bind word fun b => done (f (.exEx a b))

/-- MOV-ID-EX: the postbyte of the source, then the address of the destination (R93). -/
def movIdEx {w : Nat} (f : Mov w → Instr) : Parser Instr :=
  bind (idx .short) fun x => bind word fun a => done (f (.idEx x a))

/-- The register codes of the transfer postbyte; 011 is a temporary register, refused (R90). -/
def regOfCode (code : BitVec 3) : Option Reg :=
  match code.toNat with
  | 0 => some (.r8 .a)
  | 1 => some (.r8 .b)
  | 2 => some (.r8 .ccr)
  | 4 => some (.r16 .d)
  | 5 => some (.r16 .x)
  | 6 => some (.r16 .y)
  | 7 => some (.r16 .sp)
  | _ => none

/-- XFER: the transfer postbyte `eb` (R90, R161, R97). -/
def transferRow : Parser Instr :=
  bind byte fun eb =>
    match eb.getLsbD 3, regOfCode (eb.extractLsb' 4 3), regOfCode (eb.extractLsb' 0 3) with
    | false, some r, some R =>
      if eb.getLsbD 7 = false then done (.tfr r R)
      else if r.sameWidth R then done (.exg r R)
      else reject (.exchangeWidths eb)
    | _, _, _ => reject (.transferPostbyte eb)

/-- The counter codes of the loop postbyte; 010 and 011 are refused (R91). -/
def counterOfCode (ccc : BitVec 3) : Option Counter :=
  match ccc.toNat with
  | 0 => some .a
  | 1 => some .b
  | 4 => some .d
  | 5 => some .x
  | 6 => some .y
  | 7 => some .sp
  | _ => none

/-- The operation codes of the loop postbyte; 110 and 111 are refused (R91). -/
def loopOfCode (kkk : BitVec 3) : Option (Counter → BitVec 9 → Instr) :=
  match kkk.toNat with
  | 0 => some .dbeq
  | 1 => some .dbne
  | 2 => some .tbeq
  | 3 => some .tbne
  | 4 => some .ibeq
  | 5 => some .ibne
  | _ => none

/-- REL9: the loop postbyte `lb` and the offset byte; the offset is `lb[4] : rr` (R91). -/
def loopRow : Parser Instr :=
  bind byte fun lb =>
    match lb.getLsbD 3, loopOfCode (lb.extractLsb' 5 3), counterOfCode (lb.extractLsb' 0 3) with
    | false, some f, some c => bind byte fun rr => done (f c (lb.extractLsb' 4 1 ++ rr))
    | _, _, _ => reject (.loopPostbyte lb)

/-- The prebyte: the next byte is a page-2 opcode (R72). -/
def prebyte (page : Byte → Parser Instr) : Parser Instr := bind byte page

/-! ### The opcode maps -/

/-- Page 2, second bytes $00 to $2F and $3A to $3F (R95); a row of the map is a high nibble. -/
def page2Map : List (List (Parser Instr)) := [
  -- $00
   [movImId word .movw, movExId .movw, movIdId .movw, movImEx word .movw, movExEx .movw,
    movIdEx .movw, inh .aba, inh .daa, movImId byte .movb, movExId .movb, movIdId .movb,
    movImEx byte .movb, movExEx .movb, movIdEx .movb, inh .tab, inh .tba],
  -- $10
   [inh .idiv, inh .fdiv, outOfScope "EMACS", inh .emuls, inh .edivs, inh .idivs, inh .sba, inh .cba,
    outOfScope "MAXA", outOfScope "MINA", outOfScope "EMAXD", outOfScope "EMIND",
    outOfScope "MAXM", outOfScope "MINM", outOfScope "EMAXM", outOfScope "EMINM"],
  -- $20
   [rel16 .lbra, rel16 .lbrn, rel16 .lbhi, rel16 .lbls, rel16 .lbcc, rel16 .lbcs, rel16 .lbne,
    rel16 .lbeq, rel16 .lbvc, rel16 .lbvs, rel16 .lbpl, rel16 .lbmi, rel16 .lbge, rel16 .lblt,
    rel16 .lbgt, rel16 .lble]]

/-- The out-of-scope instructions $3A to $3F of page 2 (R95). -/
def page2Tail : List String := ["REV", "REVW", "WAV", "TBL", "STOP", "ETBL"]

/-- A page-2 instruction by its second byte. $30 to $39 and $40 to $FF are no instructions (R95,
R401). -/
def page2 (op : Byte) : Parser Instr :=
  match page2Map[op.toNat / 16]? with
  | some row =>
    match row[op.toNat % 16]? with
    | some p => p
    | none => reject (.unimplemented op)
  | none =>
    if 0x3A ≤ op.toNat then
      match page2Tail[op.toNat - 0x3A]? with
      | some mnemonic => outOfScope mnemonic
      | none => reject (.unimplemented op)
    else reject (.unimplemented op)

/-- Page 1 (R94); a row of the map is a high nibble. -/
def page1Map : List (List (Parser Instr)) := [
  -- $00
   [outOfScope "BGND", outOfScope "MEM", inh .iny, inh .dey, loopRow, outOfScope "JMP",
    outOfScope "JMP", outOfScope "BSR", inh .inx, inh .dex, outOfScope "RTC", outOfScope "RTI",
    bitIdx .bset, bitIdx .bclr, bitBranchIdx .brset, bitBranchIdx .brclr],
  -- $10
   [mask8 .andcc, inh .ediv, inh .mul, inh .emul, mask8 .orcc, outOfScope "JSR",
    outOfScope "JSR", outOfScope "JSR", prebyte page2, lea .leay, lea .leax, lea .leas,
    bitExt .bset, bitExt .bclr, bitBranchExt .brset, bitBranchExt .brclr],
  -- $20
   [rel8 .bra, rel8 .brn, rel8 .bhi, rel8 .bls, rel8 .bcc, rel8 .bcs, rel8 .bne, rel8 .beq,
    rel8 .bvc, rel8 .bvs, rel8 .bpl, rel8 .bmi, rel8 .bge, rel8 .blt, rel8 .bgt, rel8 .ble],
  -- $30
   [inh .pulx, inh .puly, inh .pula, inh .pulb, inh .pshx, inh .pshy, inh .psha, inh .pshb,
    inh .pulc, inh .pshc, inh .puld, inh .pshd, outOfScope "WAV", outOfScope "RTS",
    outOfScope "WAI", outOfScope "SWI"],
  -- $40
   [inh .nega, inh .coma, inh .inca, inh .deca, inh .lsra, inh .rola, inh .rora, inh .asra,
    inh .asla, inh .lsrd, outOfScope "CALL", outOfScope "CALL", bitDir .bset, bitDir .bclr,
    bitBranchDir .brset, bitBranchDir .brclr],
  -- $50
   [inh .negb, inh .comb, inh .incb, inh .decb, inh .lsrb, inh .rolb, inh .rorb, inh .asrb,
    inh .aslb, inh .asld, memDir .staa, memDir .stab, memDir .std, memDir .sty, memDir .stx,
    memDir .sts],
  -- $60
   [rmwIdx .neg, rmwIdx .com, rmwIdx .inc, rmwIdx .dec, rmwIdx .lsr, rmwIdx .rol, rmwIdx .ror,
    rmwIdx .asr, rmwIdx .asl, rmwIdx .clr, memIdx .staa, memIdx .stab, memIdx .std, memIdx .sty,
    memIdx .stx, memIdx .sts],
  -- $70
   [rmwExt .neg, rmwExt .com, rmwExt .inc, rmwExt .dec, rmwExt .lsr, rmwExt .rol, rmwExt .ror,
    rmwExt .asr, rmwExt .asl, rmwExt .clr, memExt .staa, memExt .stab, memExt .std, memExt .sty,
    memExt .stx, memExt .sts],
  -- $80
   [imm8 .suba, imm8 .cmpa, imm8 .sbca, imm16 .subd, imm8 .anda, imm8 .bita, imm8 .ldaa,
    inh .clra, imm8 .eora, imm8 .adca, imm8 .oraa, imm8 .adda, imm16 .cpd, imm16 .cpy,
    imm16 .cpx, imm16 .cps],
  -- $90
   [srcDir .suba, srcDir .cmpa, srcDir .sbca, srcDir .subd, srcDir .anda, srcDir .bita,
    srcDir .ldaa, inh .tsta, srcDir .eora, srcDir .adca, srcDir .oraa, srcDir .adda, srcDir .cpd,
    srcDir .cpy, srcDir .cpx, srcDir .cps],
  -- $A0
   [srcIdx .suba, srcIdx .cmpa, srcIdx .sbca, srcIdx .subd, srcIdx .anda, srcIdx .bita,
    srcIdx .ldaa, outOfScope "NOP", srcIdx .eora, srcIdx .adca, srcIdx .oraa, srcIdx .adda,
    srcIdx .cpd, srcIdx .cpy, srcIdx .cpx, srcIdx .cps],
  -- $B0
   [srcExt .suba, srcExt .cmpa, srcExt .sbca, srcExt .subd, srcExt .anda, srcExt .bita,
    srcExt .ldaa, transferRow, srcExt .eora, srcExt .adca, srcExt .oraa, srcExt .adda,
    srcExt .cpd, srcExt .cpy, srcExt .cpx, srcExt .cps],
  -- $C0
   [imm8 .subb, imm8 .cmpb, imm8 .sbcb, imm16 .addd, imm8 .andb, imm8 .bitb, imm8 .ldab,
    inh .clrb, imm8 .eorb, imm8 .adcb, imm8 .orab, imm8 .addb, imm16 .ldd, imm16 .ldy,
    imm16 .ldx, imm16 .lds],
  -- $D0
   [srcDir .subb, srcDir .cmpb, srcDir .sbcb, srcDir .addd, srcDir .andb, srcDir .bitb,
    srcDir .ldab, inh .tstb, srcDir .eorb, srcDir .adcb, srcDir .orab, srcDir .addb, srcDir .ldd,
    srcDir .ldy, srcDir .ldx, srcDir .lds],
  -- $E0
   [srcIdx .subb, srcIdx .cmpb, srcIdx .sbcb, srcIdx .addd, srcIdx .andb, srcIdx .bitb,
    srcIdx .ldab, rmwIdx .tst, srcIdx .eorb, srcIdx .adcb, srcIdx .orab, srcIdx .addb,
    srcIdx .ldd, srcIdx .ldy, srcIdx .ldx, srcIdx .lds],
  -- $F0
   [srcExt .subb, srcExt .cmpb, srcExt .sbcb, srcExt .addd, srcExt .andb, srcExt .bitb,
    srcExt .ldab, rmwExt .tst, srcExt .eorb, srcExt .adcb, srcExt .orab, srcExt .addb,
    srcExt .ldd, srcExt .ldy, srcExt .ldx, srcExt .lds]]

/-- A page-1 instruction by its opcode. Every one-byte opcode stands in the map (R401). -/
def page1 (op : Byte) : Parser Instr :=
  match page1Map[op.toNat / 16]? with
  | some row =>
    match row[op.toNat % 16]? with
    | some p => p
    | none => reject (.unimplemented op)
  | none => reject (.unimplemented op)

end Row

/-! ### Second names of one encoding (R96) -/

/-- The general instruction whose bytes an instruction has (R96); every other instruction has an
encoding of its own. -/
def Instr.general : Instr → Instr
  | .tap => .tfr (.r8 .a) (.r8 .ccr)
  | .tpa => .tfr (.r8 .ccr) (.r8 .a)
  | .tsx => .tfr (.r16 .sp) (.r16 .x)
  | .tsy => .tfr (.r16 .sp) (.r16 .y)
  | .txs => .tfr (.r16 .x) (.r16 .sp)
  | .tys => .tfr (.r16 .y) (.r16 .sp)
  | .xgdx => .exg (.r16 .d) (.r16 .x)
  | .xgdy => .exg (.r16 .d) (.r16 .y)
  | .sex r R => .tfr (.r8 r) (.r16 R)
  | .abx => .leax (.acc .x .b)
  | .aby => .leay (.acc .y .b)
  | .des => .leas (.off5 .sp (-1))
  | .ins => .leas (.off5 .sp 1)
  | .clc => .andcc 0xFE
  | .cli => .andcc 0xEF
  | .clv => .andcc 0xFD
  | .lsl m => .asl m
  | .lsla => .asla
  | .lslb => .aslb
  | .lsld => .asld
  | .bhs rr => .bcc rr
  | .blo rr => .bcs rr
  | .lbhs qr => .lbcc qr
  | .lblo qr => .lbcs qr
  | i => i

/-- The name the decoder reports for a general instruction. R96 lets it report either name; it
reports the second name where that name has fewer byte sequences than the general one
(DESIGN CHOICE, safe: both names have one meaning; log 11). -/
def Instr.named : Instr → Instr
  | .tfr (.r8 .a) (.r8 .ccr) => .tap
  | .tfr (.r8 .ccr) (.r8 .a) => .tpa
  | .tfr (.r16 .sp) (.r16 .x) => .tsx
  | .tfr (.r16 .sp) (.r16 .y) => .tsy
  | .tfr (.r16 .x) (.r16 .sp) => .txs
  | .tfr (.r16 .y) (.r16 .sp) => .tys
  | .tfr (.r8 r) (.r16 R) => .sex r R
  | .exg (.r16 .d) (.r16 .x) => .xgdx
  | .exg (.r16 .d) (.r16 .y) => .xgdy
  | .leax x => if x = .acc .x .b then .abx else .leax x
  | .leay x => if x = .acc .y .b then .aby else .leay x
  | .leas x => if x = .off5 .sp (-1) then .des else if x = .off5 .sp 1 then .ins else .leas x
  | .andcc ii =>
    if ii = 0xFE then .clc else if ii = 0xEF then .cli else if ii = 0xFD then .clv else .andcc ii
  | i => i

/-- The name the decoder reports for the bytes of an instruction. -/
def Instr.canonical (i : Instr) : Instr := i.general.named

/-- Reads one instruction under its general name: the opcode selects the row (R73). -/
def decodeGeneral : Parser Instr := Row.bind Row.byte Row.page1

/-- Reads one instruction from the front of a byte list; total, and rejecting by name (R97). -/
def decode : Parser Instr := Row.bind decodeGeneral fun i => Row.done i.named

/-! ### The encoder -/

/-- The codes of the base registers (R81). -/
def IdxBase.code : IdxBase → BitVec 2
  | .x => 0
  | .y => 1
  | .sp => 2
  | .pc => 3

/-- The codes of the base registers of the auto forms (R83). -/
def AutoBase.code : AutoBase → BitVec 2
  | .x => 0
  | .y => 1
  | .sp => 2

/-- The codes `aa` of the accumulators (R84). -/
def AccOffset.code : AccOffset → BitVec 2
  | .a => 0
  | .b => 1
  | .d => 2

/-- Two bytes, the more significant first (R74). -/
def encodeWord (w : Word) : List Byte := [hiByte w, loByte w]

/-- The postbyte and extension bytes of an indexed operand (R82 to R88). -/
def Idx.encode : Idx → List Byte
  | .off5 r n => [r.code ++ 0#1 ++ n]
  | .auto r post nnnn => [r.code ++ 1#1 ++ BitVec.ofBool post ++ nnnn]
  | .off9 r n => [0b111#3 ++ r.code ++ 0b00#2 ++ n.extractLsb' 8 1, n.extractLsb' 0 8]
  | .off16 r n => (0b111#3 ++ r.code ++ 0b010#3) :: encodeWord n
  | .ind16 r n => (0b111#3 ++ r.code ++ 0b011#3) :: encodeWord n
  | .acc r o => [0b111#3 ++ r.code ++ 1#1 ++ o.code]
  | .indD r => [0b111#3 ++ r.code ++ 0b111#3]

/-- The opcode and operand bytes of an instruction with DIR, EXT and IDX forms. -/
def Mem.encode (dir ext idx : Byte) : Mem → List Byte
  | .dir dd => [dir, dd]
  | .ext hhll => ext :: encodeWord hhll
  | .idx x => idx :: x.encode

/-- The opcode and operand bytes of an instruction with EXT and IDX forms. -/
def MemX.encode (ext idx : Byte) : MemX → List Byte
  | .ext hhll => ext :: encodeWord hhll
  | .idx x => idx :: x.encode

/-- The opcode and operand bytes of an instruction with IMM8, DIR, EXT and IDX forms. -/
def encodeOpr8 (imm dir ext idx : Byte) : Opr 8 → List Byte
  | .imm ii => [imm, ii]
  | .mem m => m.encode dir ext idx

/-- The opcode and operand bytes of an instruction with IMM16, DIR, EXT and IDX forms. -/
def encodeOpr16 (imm dir ext idx : Byte) : Opr 16 → List Byte
  | .imm jjkk => imm :: encodeWord jjkk
  | .mem m => m.encode dir ext idx

/-- MOVB (R95, R166). -/
def encodeMovb : Mov 8 → List Byte
  | .imId ii x => 0x18 :: 0x08 :: (x.encode ++ [ii])
  | .exId a x => 0x18 :: 0x09 :: (x.encode ++ encodeWord a)
  | .idId x y => 0x18 :: 0x0A :: (x.encode ++ y.encode)
  | .imEx ii a => 0x18 :: 0x0B :: ii :: encodeWord a
  | .exEx a b => 0x18 :: 0x0C :: (encodeWord a ++ encodeWord b)
  | .idEx x a => 0x18 :: 0x0D :: (x.encode ++ encodeWord a)

/-- MOVW (R95, R167). -/
def encodeMovw : Mov 16 → List Byte
  | .imId jjkk x => 0x18 :: 0x00 :: (x.encode ++ encodeWord jjkk)
  | .exId a x => 0x18 :: 0x01 :: (x.encode ++ encodeWord a)
  | .idId x y => 0x18 :: 0x02 :: (x.encode ++ y.encode)
  | .imEx jjkk a => 0x18 :: 0x03 :: (encodeWord jjkk ++ encodeWord a)
  | .exEx a b => 0x18 :: 0x04 :: (encodeWord a ++ encodeWord b)
  | .idEx x a => 0x18 :: 0x05 :: (x.encode ++ encodeWord a)

/-- The register codes of the transfer postbyte (R90). -/
def Reg.code : Reg → BitVec 3
  | .r8 .a => 0
  | .r8 .b => 1
  | .r8 .ccr => 2
  | .r16 .d => 4
  | .r16 .x => 5
  | .r16 .y => 6
  | .r16 .sp => 7

/-- XFER: opcode `B7` and the postbyte, `e` its bit 7 (R90). -/
def encodeTransfer (e : BitVec 1) (r R : Reg) : List Byte := [0xB7, e ++ r.code ++ 0#1 ++ R.code]

/-- The counter codes of the loop postbyte (R91). -/
def Counter.code : Counter → BitVec 3
  | .a => 0
  | .b => 1
  | .d => 4
  | .x => 5
  | .y => 6
  | .sp => 7

/-- REL9: opcode `04`, the loop postbyte and the offset byte (R91). -/
def encodeLoop (kkk : BitVec 3) (c : Counter) (rel : BitVec 9) : List Byte :=
  [0x04, kkk ++ rel.extractLsb' 8 1 ++ 0#1 ++ c.code, rel.extractLsb' 0 8]

/-- The bytes of an instruction (R74, R94 to R96). -/
def encode : Instr → List Byte
  -- Load, load effective address, store (40_load_store.md)
  | .ldaa o => encodeOpr8 0x86 0x96 0xB6 0xA6 o
  | .ldab o => encodeOpr8 0xC6 0xD6 0xF6 0xE6 o
  | .ldd o => encodeOpr16 0xCC 0xDC 0xFC 0xEC o
  | .lds o => encodeOpr16 0xCF 0xDF 0xFF 0xEF o
  | .ldx o => encodeOpr16 0xCE 0xDE 0xFE 0xEE o
  | .ldy o => encodeOpr16 0xCD 0xDD 0xFD 0xED o
  | .leas x => 0x1B :: x.encode
  | .leax x => 0x1A :: x.encode
  | .leay x => 0x19 :: x.encode
  | .staa m => m.encode 0x5A 0x7A 0x6A
  | .stab m => m.encode 0x5B 0x7B 0x6B
  | .std m => m.encode 0x5C 0x7C 0x6C
  | .sts m => m.encode 0x5F 0x7F 0x6F
  | .stx m => m.encode 0x5E 0x7E 0x6E
  | .sty m => m.encode 0x5D 0x7D 0x6D
  -- Transfer, exchange, sign-extend, move, stack (41_transfer_move_stack.md)
  | .tab => [0x18, 0x0E]
  | .tap => [0xB7, 0x02]
  | .tba => [0x18, 0x0F]
  | .tfr r R => encodeTransfer 0 r R
  | .tpa => [0xB7, 0x20]
  | .tsx => [0xB7, 0x75]
  | .tsy => [0xB7, 0x76]
  | .txs => [0xB7, 0x57]
  | .tys => [0xB7, 0x67]
  | .exg r R => encodeTransfer 1 r R
  | .xgdx => [0xB7, 0xC5]
  | .xgdy => [0xB7, 0xC6]
  | .sex r R => encodeTransfer 0 (.r8 r) (.r16 R)
  | .movb m => encodeMovb m
  | .movw m => encodeMovw m
  | .psha => [0x36]
  | .pshb => [0x37]
  | .pshc => [0x39]
  | .pshd => [0x3B]
  | .pshx => [0x34]
  | .pshy => [0x35]
  | .pula => [0x32]
  | .pulb => [0x33]
  | .pulc => [0x38]
  | .puld => [0x3A]
  | .pulx => [0x30]
  | .puly => [0x31]
  -- Add, subtract, decimal adjust, increment, decrement (42_add_sub_incdec.md)
  | .aba => [0x18, 0x06]
  | .abx => [0x1A, 0xE5]
  | .aby => [0x19, 0xED]
  | .adca o => encodeOpr8 0x89 0x99 0xB9 0xA9 o
  | .adcb o => encodeOpr8 0xC9 0xD9 0xF9 0xE9 o
  | .adda o => encodeOpr8 0x8B 0x9B 0xBB 0xAB o
  | .addb o => encodeOpr8 0xCB 0xDB 0xFB 0xEB o
  | .addd o => encodeOpr16 0xC3 0xD3 0xF3 0xE3 o
  | .sba => [0x18, 0x16]
  | .sbca o => encodeOpr8 0x82 0x92 0xB2 0xA2 o
  | .sbcb o => encodeOpr8 0xC2 0xD2 0xF2 0xE2 o
  | .suba o => encodeOpr8 0x80 0x90 0xB0 0xA0 o
  | .subb o => encodeOpr8 0xC0 0xD0 0xF0 0xE0 o
  | .subd o => encodeOpr16 0x83 0x93 0xB3 0xA3 o
  | .daa => [0x18, 0x07]
  | .dec m => m.encode 0x73 0x63
  | .deca => [0x43]
  | .decb => [0x53]
  | .des => [0x1B, 0x9F]
  | .dex => [0x09]
  | .dey => [0x03]
  | .inc m => m.encode 0x72 0x62
  | .inca => [0x42]
  | .incb => [0x52]
  | .ins => [0x1B, 0x81]
  | .inx => [0x08]
  | .iny => [0x02]
  -- Compare, test, multiply, divide, clear, complement, negate (43_cmp_mul_div_clr.md)
  | .cba => [0x18, 0x17]
  | .cmpa o => encodeOpr8 0x81 0x91 0xB1 0xA1 o
  | .cmpb o => encodeOpr8 0xC1 0xD1 0xF1 0xE1 o
  | .cpd o => encodeOpr16 0x8C 0x9C 0xBC 0xAC o
  | .cps o => encodeOpr16 0x8F 0x9F 0xBF 0xAF o
  | .cpx o => encodeOpr16 0x8E 0x9E 0xBE 0xAE o
  | .cpy o => encodeOpr16 0x8D 0x9D 0xBD 0xAD o
  | .tst m => m.encode 0xF7 0xE7
  | .tsta => [0x97]
  | .tstb => [0xD7]
  | .emul => [0x13]
  | .emuls => [0x18, 0x13]
  | .mul => [0x12]
  | .ediv => [0x11]
  | .edivs => [0x18, 0x14]
  | .fdiv => [0x18, 0x11]
  | .idiv => [0x18, 0x10]
  | .idivs => [0x18, 0x15]
  | .clc => [0x10, 0xFE]
  | .cli => [0x10, 0xEF]
  | .clr m => m.encode 0x79 0x69
  | .clra => [0x87]
  | .clrb => [0xC7]
  | .clv => [0x10, 0xFD]
  | .com m => m.encode 0x71 0x61
  | .coma => [0x41]
  | .comb => [0x51]
  | .neg m => m.encode 0x70 0x60
  | .nega => [0x40]
  | .negb => [0x50]
  -- Branches, bit-condition branches, loop primitives (44_branch.md)
  | .bra rr => [0x20, rr]
  | .brn rr => [0x21, rr]
  | .bcc rr => [0x24, rr]
  | .bcs rr => [0x25, rr]
  | .beq rr => [0x27, rr]
  | .bmi rr => [0x2B, rr]
  | .bne rr => [0x26, rr]
  | .bpl rr => [0x2A, rr]
  | .bvc rr => [0x28, rr]
  | .bvs rr => [0x29, rr]
  | .bhi rr => [0x22, rr]
  | .bhs rr => [0x24, rr]
  | .blo rr => [0x25, rr]
  | .bls rr => [0x23, rr]
  | .bge rr => [0x2C, rr]
  | .bgt rr => [0x2E, rr]
  | .ble rr => [0x2F, rr]
  | .blt rr => [0x2D, rr]
  | .lbra qr => 0x18 :: 0x20 :: encodeWord qr
  | .lbrn qr => 0x18 :: 0x21 :: encodeWord qr
  | .lbcc qr => 0x18 :: 0x24 :: encodeWord qr
  | .lbcs qr => 0x18 :: 0x25 :: encodeWord qr
  | .lbeq qr => 0x18 :: 0x27 :: encodeWord qr
  | .lbmi qr => 0x18 :: 0x2B :: encodeWord qr
  | .lbne qr => 0x18 :: 0x26 :: encodeWord qr
  | .lbpl qr => 0x18 :: 0x2A :: encodeWord qr
  | .lbvc qr => 0x18 :: 0x28 :: encodeWord qr
  | .lbvs qr => 0x18 :: 0x29 :: encodeWord qr
  | .lbhi qr => 0x18 :: 0x22 :: encodeWord qr
  | .lbhs qr => 0x18 :: 0x24 :: encodeWord qr
  | .lblo qr => 0x18 :: 0x25 :: encodeWord qr
  | .lbls qr => 0x18 :: 0x23 :: encodeWord qr
  | .lbge qr => 0x18 :: 0x2C :: encodeWord qr
  | .lbgt qr => 0x18 :: 0x2E :: encodeWord qr
  | .lble qr => 0x18 :: 0x2F :: encodeWord qr
  | .lblt qr => 0x18 :: 0x2D :: encodeWord qr
  | .brclr m mm rr => m.encode 0x4F 0x1F 0x0F ++ [mm, rr]
  | .brset m mm rr => m.encode 0x4E 0x1E 0x0E ++ [mm, rr]
  | .dbeq c rel => encodeLoop 0 c rel
  | .dbne c rel => encodeLoop 1 c rel
  | .ibeq c rel => encodeLoop 4 c rel
  | .ibne c rel => encodeLoop 5 c rel
  | .tbeq c rel => encodeLoop 2 c rel
  | .tbne c rel => encodeLoop 3 c rel
  -- Logic and bit instructions (45_logic_bit.md)
  | .anda o => encodeOpr8 0x84 0x94 0xB4 0xA4 o
  | .andb o => encodeOpr8 0xC4 0xD4 0xF4 0xE4 o
  | .andcc ii => [0x10, ii]
  | .eora o => encodeOpr8 0x88 0x98 0xB8 0xA8 o
  | .eorb o => encodeOpr8 0xC8 0xD8 0xF8 0xE8 o
  | .oraa o => encodeOpr8 0x8A 0x9A 0xBA 0xAA o
  | .orab o => encodeOpr8 0xCA 0xDA 0xFA 0xEA o
  | .orcc ii => [0x14, ii]
  | .bclr m mm => m.encode 0x4D 0x1D 0x0D ++ [mm]
  | .bita o => encodeOpr8 0x85 0x95 0xB5 0xA5 o
  | .bitb o => encodeOpr8 0xC5 0xD5 0xF5 0xE5 o
  | .bset m mm => m.encode 0x4C 0x1C 0x0C ++ [mm]
  -- Shifts and rotates (46_shift_rotate.md)
  | .lsl m => m.encode 0x78 0x68
  | .lsla => [0x48]
  | .lslb => [0x58]
  | .lsld => [0x59]
  | .lsr m => m.encode 0x74 0x64
  | .lsra => [0x44]
  | .lsrb => [0x54]
  | .lsrd => [0x49]
  | .asl m => m.encode 0x78 0x68
  | .asla => [0x48]
  | .aslb => [0x58]
  | .asld => [0x59]
  | .asr m => m.encode 0x77 0x67
  | .asra => [0x47]
  | .asrb => [0x57]
  | .rol m => m.encode 0x75 0x65
  | .rola => [0x45]
  | .rolb => [0x55]
  | .ror m => m.encode 0x76 0x66
  | .rora => [0x46]
  | .rorb => [0x56]

/-! ### The table's words -/

/-- The `k` lowest bytes of a number, the lowest first. -/
def bytesOfNat : Nat → Nat → List Byte
  | 0, _ => []
  | k + 1, w => BitVec.ofNat 8 w :: bytesOfNat k (w / 256)

/-- The six bytes of a table word: `nbits` bits of `w`, the first byte least significant, and zeros up
to the longest instruction. -/
def tableBytes (nbits w : Nat) : List Byte := bytesOfNat 6 (w % 2 ^ nbits)

/-- The instruction the decoder reads from the bits `w` of an opcode-table row. -/
def decodeTableWord (nbits w : Nat) : Option Instr :=
  match decode (tableBytes nbits w) with
  | .ok (i, _) => some i
  | .error _ => none

end Sys2Proof
end

