-- ==== Sys2Proof/Config.lean ====
section
/-! DEFINITION. What an implementation fixes: the constants of the model (R6) and the free values,
the values that the spec calls `draw(N)` and leaves to the hardware (R9). -/

namespace Sys2Proof.Config

/-- `DIRECT_BASE`, the page that 8-bit direct addresses select (R6, R78, decision D6). -/
def directBase : Word := 0x0000#16

/-- `RESET_PC`, where execution starts. The spec leaves it open (R6, R42, R430).
DESIGN CHOICE, unsafe: $0800, the entry of the spec's own programs (log 3). -/
def resetPc : Word := 0x0800#16

/-- `draw(1)`: the k-th free bit. It has no body: nothing is known of its value (R9; log 10). -/
opaque freeBit : Nat → Bool

/-- `draw(8)`: the k-th free byte (R9; log 10). -/
opaque freeByte : Nat → Byte

/-- `draw(16)`: the k-th free word (R9; log 10). -/
opaque freeWord : Nat → Word

end Sys2Proof.Config
end

