-- ==== Sys2Proof/Machine/State.lean ====
section
/-! DEFINITION. The state of the machine as plain data (spec 10_state.md, 20_memory.md), the launch
parameters that the spec makes arguments of the model (R6), the reasons a step can stop, and the
state at launch (R42, R430). -/

namespace Sys2Proof.Machine

/-- The class of an address in `MemMap` (R6, R58). -/
inductive RegionKind where
  | ram | rom | device | unmapped
  deriving DecidableEq, Repr

/-- A region of the address space: `size` addresses from `base` on, none past $FFFF. -/
structure Region where
  base : Nat
  size : Nat
  kind : RegionKind
  deriving DecidableEq, Repr

/-- A range of addresses: `size` addresses from `base` on. -/
structure Span where
  base : Nat
  size : Nat
  deriving DecidableEq, Repr

/-- The parameter `PCBASE(instr)`, once supplied (R6, R81, decision D7): what is added to the address
of the next instruction to give the base value of a PC-based indexed operand. D7 allows "an
exception for moves", so a move's source and destination have values of their own.
DESIGN CHOICE, safe: a `PCBASE` of another shape is left unsupplied and refuses (log 8). -/
structure PcBase where
  general : Word
  moveSource : Word
  moveDest : Word
  deriving DecidableEq, Repr

/-- The launch parameters: arguments of the model and not state of the processor (R6, R43). They stand
beside the state because a step is a function of the state alone, and no step changes them. -/
structure Launch where
  /-- `MemMap`: the class of an address is that of the first region that holds it (R58; log 6). -/
  map : List Region
  /-- `MemMap`: the class of an address in no region. -/
  rest : RegionKind
  /-- The bytes of the program text: no store may change them (R65), and the fetch reads no others
  (log 7). -/
  text : List Span
  /-- `PCBASE`, if it is supplied (R81; log 8). -/
  pcBase : Option PcBase
  /-- `END_PC`, if the run has one (R433; log 9). -/
  endPc : Option Word
  deriving DecidableEq, Repr

/-- The state of the machine. Every register holds a value from reset on. -/
structure State where
  /-- Accumulator A (R20). -/
  a : Byte
  /-- Accumulator B (R21). -/
  b : Byte
  /-- Index register X (R23). -/
  x : Word
  /-- Index register Y (R24). -/
  y : Word
  /-- Stack pointer (R25). -/
  sp : Word
  /-- Program counter: the address of the next instruction to execute (R26). -/
  pc : Word
  /-- Condition code register S X H I N Z V C, bit 7 to bit 0 (R28). -/
  ccr : Byte
  /-- The bytes of memory that have a value, addresses strictly rising (R50, R58). -/
  mem : List Host.Cell
  /-- The model's own field: how many free values have been drawn (R9; log 10). -/
  draws : Nat
  /-- The launch parameters (R6). -/
  launch : Launch
  deriving DecidableEq, Repr

/-- Why the machine stops with a fault. -/
inductive Fault where
  /-- A read of a memory byte that neither the launch image nor an earlier store gave a value (R58,
  A11). Raised by every access to memory and by the fetch. Safe: the hardware goes on with an
  unknown byte. -/
  | noValue (address : Word)
  /-- The run has reached `END_PC` and ends, successfully; the instruction there is not fetched
  (R433). Raised by `step` alone. Safe: the hardware goes on. -/
  | endOfRun
  deriving DecidableEq, Repr

/-- Why the spec gives a step no meaning. Each is the spec's own `refuse`, `fetchOutsideText` in the model's
form of R65 (log 7), and safe: the hardware goes on in some way that the spec does not state. -/
inductive Refusal where
  /-- An instruction without a meaning in this model. No arm of `exec` answers it. Safe. -/
  | notModelled (mnemonic : String)
  /-- The bytes at the program counter are no instruction of the spec (R97). Raised by the fetch. -/
  | encoding (e : DecodeError)
  /-- An access to an address of class `device` (R58). Raised by reads, writes and the fetch. -/
  | deviceAccess (address : Word)
  /-- An access to an address of class `unmapped` (R58). Raised by reads, writes and the fetch. -/
  | unmappedAccess (address : Word)
  /-- A write to an address of class `rom` (R58). -/
  | romWrite (address : Word)
  /-- A store to a byte of the program text (R65). -/
  | textStore (address : Word)
  /-- The fetch of a byte that is not declared program text, which is to hold every byte that the decoder
  may read (R65; log 7). Raised by the fetch alone. -/
  | fetchOutsideText (address : Word)
  /-- A PC-based indexed operand while `PCBASE` is not supplied (R81, D7). -/
  | pcBaseOpen
  /-- The instruction's data register is the base register that its operand increments or decrements
  (R83, D24). -/
  | autoBaseIsData
  /-- Both operands of a move increment or decrement one base register (R165, D24). -/
  | moveSharesAutoBase
  /-- A term of `Instr` whose indexed sub-form is outside its class (R89). It has no encoding, so no
  step of a run raises this. -/
  | indexedSubform (x : Idx)
  /-- A term `exg` between registers of unequal widths (R161). It has no encoding here, so no step of
  a run raises this: the decoder refuses the bytes. -/
  | exchangeWidths
  deriving DecidableEq, Repr

/-- What an operation answers: a value, a fault or a refusal. -/
abbrev Res (α : Type) := Host.Outcome α Fault Refusal

/-- The state at launch (R42, R430): S = X = I = 1 and PC = `RESET_PC`; no byte of memory has a value;
A, B, X, Y, SP are zero and H, N, Z, V, C are clear where the spec gives no value (DESIGN CHOICE,
unsafe: log 1, log 2); every address is `ram`, no program text is declared, `PCBASE` is not
supplied and no address ends the run (log 6 to 9). -/
def State.reset : State where
  a := 0
  b := 0
  x := 0
  y := 0
  sp := 0
  pc := Config.resetPc
  ccr := 0b11010000#8
  mem := []
  draws := 0
  launch :=
    { map := []
      rest := .ram
      text := []
      pcBase := none
      endPc := none }

end Sys2Proof.Machine
end

