-- ==== Sys2Proof/Machine/Ops.lean ====
section
/-! DEFINITION. The named operations over registers and memory: sequencing, register access, the
condition code register as a byte, memory with its admission by region, the free values, the fetch,
the stack, and the taking of an exception with the return from it. -/

namespace Sys2Proof.Machine

/-! ### Sequencing -/

/-- Goes on with the value of a result; a fault or a refusal ends the instruction. -/
def andThen {α β : Type} (r : Res α) (f : α → Res β) : Res β :=
  match r with
  | .next v => f v
  | .fault e => .fault e
  | .refused e => .refused e

/-! ### Registers -/

/-- D, the 16-bit value A:B (R22). -/
def State.d (s : State) : Word := mkWord s.a s.b

def State.setA (v : Byte) (s : State) : State := { s with a := v }

def State.setB (v : Byte) (s : State) : State := { s with b := v }

/-- Writing D writes `A <- v[15:8]` and `B <- v[7:0]` (R22). -/
def State.setD (v : Word) (s : State) : State := { s with a := hiByte v, b := loByte v }

def State.setX (v : Word) (s : State) : State := { s with x := v }

def State.setY (v : Word) (s : State) : State := { s with y := v }

def State.setSp (v : Word) (s : State) : State := { s with sp := v }

def State.setPc (v : Word) (s : State) : State := { s with pc := v }

/-- Replaces all eight bits of CCR, X included; instructions go through `writeCcr` or `setFlags`. -/
def State.setCcr (v : Byte) (s : State) : State := { s with ccr := v }

def State.setMem (m : List Host.Cell) (s : State) : State := { s with mem := m }

def State.setDraws (n : Nat) (s : State) : State := { s with draws := n }

/-- `pc <- (pc + L) mod 2^16` (R27): the closing of every instruction that does not branch. -/
def State.advance (len : Nat) (s : State) : State := s.setPc (s.pc + BitVec.ofNat 16 len)

/-- The address of the next instruction, `pc + L` (R26). -/
def State.nextPc (len : Nat) (s : State) : Word := s.pc + BitVec.ofNat 16 len

/-! ### The condition code register as a byte -/

/-- `writeCCR(v)` (R37): X can be cleared and not set, the other bits are those of `v`. -/
def State.writeCcr (v : Byte) (s : State) : State :=
  s.setCcr ((v &&& 0b10111111#8) ||| (s.ccr &&& v &&& 0b01000000#8))

/-! ### Registers named by a postbyte -/

/-- Reading an 8-bit register (R90, R154). -/
def State.read8 (s : State) : Reg8 → Byte
  | .a => s.a
  | .b => s.b
  | .ccr => s.ccr

/-- Writing an 8-bit register; CCR is written through `writeCcr` (R154, R160). -/
def State.write8 (r : Reg8) (v : Byte) (s : State) : State :=
  match r with
  | .a => s.setA v
  | .b => s.setB v
  | .ccr => s.writeCcr v

/-- Reading a 16-bit register (R90, R154). -/
def State.read16 (s : State) : Reg16 → Word
  | .d => s.d
  | .x => s.x
  | .y => s.y
  | .sp => s.sp

/-- Writing a 16-bit register (R154, R160). -/
def State.write16 (r : Reg16) (v : Word) (s : State) : State :=
  match r with
  | .d => s.setD v
  | .x => s.setX v
  | .y => s.setY v
  | .sp => s.setSp v

/-! ### Free values -/

/-- `draw(1)` (R9): a bit the spec does not determine. -/
def State.drawBit (s : State) : Bool × State :=
  (Config.freeBit s.draws, s.setDraws (s.draws + 1))

/-- `draw(8)` (R9). -/
def State.drawByte (s : State) : Byte × State :=
  (Config.freeByte s.draws, s.setDraws (s.draws + 1))

/-- `draw(16)` (R9). -/
def State.drawWord (s : State) : Word × State :=
  (Config.freeWord s.draws, s.setDraws (s.draws + 1))

/-! ### Memory -/

/-- The value of the byte at an address, if it has one. -/
def memGet : List Host.Cell → Nat → Option Byte
  | [], _ => none
  | (k, v) :: rest, a => if k = a then some v else memGet rest a

/-- Gives the byte at an address a value, keeping the addresses strictly rising. -/
def memSet : List Host.Cell → Nat → Byte → List Host.Cell
  | [], a, v => [(a, v)]
  | (k, w) :: rest, a, v =>
    if a < k then (a, v) :: (k, w) :: rest
    else if a = k then (a, v) :: rest
    else (k, w) :: memSet rest a v

/-- Whether every address of a memory list lies from `lo` to $FFFF and the addresses rise strictly. -/
def memWfFrom : Nat → List Host.Cell → Bool
  | _, [] => true
  | lo, (k, _) :: rest => decide (lo ≤ k) && decide (k < 65536) && memWfFrom (k + 1) rest

/-- The canonical form of memory (R50): addresses of the 64 Kbyte space, strictly rising. An unlisted
address has no value (R58), so every entry differs from what an unlisted address reads as. -/
def memWf (m : List Host.Cell) : Bool := memWfFrom 0 m

/-- Whether a region holds an address. -/
def Region.holds (r : Region) (a : Word) : Bool :=
  decide (r.base ≤ a.toNat) && decide (a.toNat < r.base + r.size)

/-- Whether a span holds an address. -/
def Span.holds (p : Span) (a : Word) : Bool :=
  decide (p.base ≤ a.toNat) && decide (a.toNat < p.base + p.size)

/-- The class of an address in a list of regions: that of the first that holds it. -/
def kindIn : List Region → RegionKind → Word → RegionKind
  | [], rest, _ => rest
  | r :: rs, rest, a => if r.holds a then r.kind else kindIn rs rest a

/-- `MemMap` (R6, R58). -/
def Launch.kindOf (l : Launch) (a : Word) : RegionKind := kindIn l.map l.rest a

/-- Whether an address is a byte of the program text (R65). -/
def Launch.isText (l : Launch) (a : Word) : Bool := l.text.any fun p => p.holds a

/-- `MemRead(addr, 1)` (R53), admitted by R58: RAM and ROM give the byte's value, a byte with no value
is a fault, a device or unmapped address is refused. -/
def readByte (a : Word) (s : State) : Res Byte :=
  match s.launch.kindOf a with
  | .ram | .rom =>
    match memGet s.mem a.toNat with
    | some v => .next v
    | none => .fault (.noValue a)
  | .device => .refused (.deviceAccess a)
  | .unmapped => .refused (.unmappedAccess a)

/-- `MemRead(addr, 2)` (R53): big-endian, the second byte at `(addr + 1) mod 2^16`. -/
def readWord (a : Word) (s : State) : Res Word :=
  andThen (readByte a s) fun hi =>
  andThen (readByte (a + 1) s) fun lo =>
  .next (mkWord hi lo)

/-- `MemWrite(addr, 1, v)` (R54): a byte of the program text is refused whatever `MemMap` says (R65),
then R58 admits RAM only. -/
def writeByte (a : Word) (v : Byte) (s : State) : Res State :=
  if s.launch.isText a then .refused (.textStore a)
  else
    match s.launch.kindOf a with
    | .ram => .next (s.setMem (memSet s.mem a.toNat v))
    | .rom => .refused (.romWrite a)
    | .device => .refused (.deviceAccess a)
    | .unmapped => .refused (.unmappedAccess a)

/-- `MemWrite(addr, 2, v)` (R54): the more significant byte at `addr`. -/
def writeWord (a : Word) (v : Word) (s : State) : Res State :=
  andThen (writeByte a (hiByte v) s) fun s1 =>
  writeByte (a + 1) (loByte v) s1

/-! ### The stack -/

/-- A push of a byte: `SP <- SP - 1`, then the store at the new SP (R25, R168). -/
def pushByte (v : Byte) (s : State) : Res State :=
  let s1 := s.setSp (s.sp - 1)
  writeByte s1.sp v s1

/-- A push of a word: `SP <- SP - 2`, then the store at the new SP (R25, R168). -/
def pushWord (v : Word) (s : State) : Res State :=
  let s1 := s.setSp (s.sp - 2)
  writeWord s1.sp v s1

/-- A pull of a byte: the load at SP, then `SP <- SP + 1` (R25, R168). -/
def pullByte (s : State) : Res (Byte × State) :=
  andThen (readByte s.sp s) fun v => .next (v, s.setSp (s.sp + 1))

/-- A pull of a word: the load at SP, then `SP <- SP + 2` (R25, R168). -/
def pullWord (s : State) : Res (Word × State) :=
  andThen (readWord s.sp s) fun v => .next (v, s.setSp (s.sp + 2))

/-! ### The fetch -/

/-- A read by the decoder (R58): of the program text alone, which by R65 holds every byte that the
decoder may read, so that no byte it reads was ever stored to (DESIGN CHOICE, safe: log 7). -/
def fetchByte (a : Word) (s : State) : Res Byte :=
  if s.launch.isText a then readByte a s else .refused (.fetchOutsideText a)

/-- The bytes from an address on, at most `n`, up to the first that the decoder cannot read (R58, A9). -/
def fetchBytes : Nat → Word → State → List Byte
  | 0, _, _ => []
  | n + 1, a, s =>
    match fetchByte a s with
    | .next v => v :: fetchBytes n (a + 1) s
    | .fault _ => []
    | .refused _ => []

/-- The instruction at the program counter. An instruction is at most 6 bytes long (R70) and addresses
wrap (R52). Where the bytes that can be read end inside the instruction, the byte after them says
why; a byte after the instruction is never an obstacle. -/
def fetchInstr (s : State) : Res Instr :=
  let bytes := fetchBytes 6 s.pc s
  match decode bytes with
  | .ok (i, _) => .next i
  | .error .truncated =>
    andThen (fetchByte (s.pc + BitVec.ofNat 16 bytes.length) s) fun _ =>
      .refused (.encoding .truncated)
  | .error e => .refused (.encoding e)

/-! ### Exceptions

The spec describes how the hardware takes an exception and returns from one (R401 to R407) and keeps
both out of its runs: no instruction in scope raises an exception (R400) and no interrupt arrives
(R403). The operations stand here whole; `step` calls none of them (log 15). -/

/-- What an exception comes from (R404, R405). -/
inductive ExceptionSource where
  /-- External or power-on reset. -/
  | reset
  | clockMonitor
  | copWatchdog
  /-- The unimplemented-opcode trap (R401). -/
  | unimplementedOpcode
  /-- The software interrupt instruction (R402). -/
  | swi
  | xirq
  | irq
  /-- The n-th on-chip peripheral interrupt: vectors `$FFF0` downward to `$FF80`. -/
  | peripheral (n : Fin 57)
  deriving DecidableEq, Repr

/-- The address of an exception's vector (R405). -/
def ExceptionSource.vector : ExceptionSource → Word
  | .reset => 0xFFFE
  | .clockMonitor => 0xFFFC
  | .copWatchdog => 0xFFFA
  | .unimplementedOpcode => 0xFFF8
  | .swi => 0xFFF6
  | .xirq => 0xFFF4
  | .irq => 0xFFF2
  | .peripheral n => 0xFFF0 - BitVec.ofNat 16 (2 * n.val)

/-- The three resets, which stack nothing (R404, R406). -/
def ExceptionSource.isReset : ExceptionSource → Bool
  | .reset | .clockMonitor | .copWatchdog => true
  | .unimplementedOpcode | .swi | .xirq | .irq | .peripheral _ => false

/-- Whether the masks let an exception be taken (R404): CCR.I blocks IRQ and the peripherals, CCR.X
blocks XIRQ, and nothing blocks a reset, SWI or the opcode trap. -/
def ExceptionSource.enabled (e : ExceptionSource) (s : State) : Bool :=
  match e with
  | .irq | .peripheral _ => !s.ccr.getLsbD 4
  | .xirq => !s.ccr.getLsbD 6
  | .reset | .clockMonitor | .copWatchdog | .unimplementedOpcode | .swi => true

/-- The priority of a source among those pending at one instruction boundary, 0 the highest (R404): the
peripherals in descending order of vector address, but for one that a control register may put at
the top of the maskable group, which is IRQ and the peripherals (`promoted`; log 15). -/
def ExceptionSource.rank (promoted : Option (Fin 57)) : ExceptionSource → Nat
  | .reset => 0
  | .clockMonitor => 1
  | .copWatchdog => 2
  | .unimplementedOpcode => 3
  | .swi => 4
  | .xirq => 5
  | .irq => 7
  | .peripheral n => if promoted = some n then 6 else 8 + n.val

/-- The exception taken among the pending ones (R404): of those that the masks let through, the one of
the highest priority. -/
def firstException (promoted : Option (Fin 57)) :
    List ExceptionSource → State → Option ExceptionSource
  | [], _ => none
  | e :: rest, s =>
    match firstException promoted rest s with
    | none => if e.enabled s then some e else none
    | some f => if e.enabled s && decide (e.rank promoted ≤ f.rank promoted) then some e else some f

/-- The nine bytes of an exception entry (R406): the return address, Y, X, then B at the lower address
and A above it, then CCR. -/
def stackRegisters (returnTo : Word) (s : State) : Res State :=
  andThen (pushWord returnTo s) fun s1 =>
  andThen (pushWord s1.y s1) fun s2 =>
  andThen (pushWord s2.x s2) fun s3 =>
  andThen (pushWord (mkWord s3.b s3.a) s3) fun s4 =>
  pushByte s4.ccr s4

/-- Taking an exception that is no reset (R406): the registers are stacked, CCR.I is set, CCR.X is set
for XIRQ, and the program counter is the vector's word. `returnTo` is the address of the next
instruction (R402, R406). -/
def takeException (e : ExceptionSource) (returnTo : Word) (s : State) : Res State :=
  andThen (stackRegisters returnTo s) fun s1 =>
  let s2 := s1.setCcr (s1.ccr ||| (if e = .xirq then 0b01010000#8 else 0b00010000#8))
  andThen (readWord e.vector s2) fun target =>
  .next (s2.setPc target)

/-- Memory without the values of its RAM bytes. -/
def forgetRam (l : Launch) (m : List Host.Cell) : List Host.Cell :=
  m.filter fun c => decide (l.kindOf (BitVec.ofNat 16 c.1) ≠ .ram)

/-- What a reset makes of the registers (R42, R430): CCR.S, CCR.X and CCR.I are set, the other CCR bits
and A, B, X, Y, SP are indeterminate. -/
def State.resetRegisters (s : State) : State :=
  { s with
    a := Config.freeByte (s.draws + 1)
    b := Config.freeByte (s.draws + 2)
    x := Config.freeWord (s.draws + 3)
    y := Config.freeWord (s.draws + 4)
    sp := Config.freeWord (s.draws + 5)
    ccr := Config.freeByte s.draws ||| 0b11010000#8
    draws := s.draws + 6 }

/-- Taking a reset on the hardware (R42, R406, R430): nothing is stacked, the registers are reset, and the
program counter is the vector's word. RAM is indeterminate too (R42): its bytes have no value
afterwards, as at launch (DESIGN CHOICE, safe: log 15). -/
def takeReset (e : ExceptionSource) (s : State) : Res State :=
  let s1 := s.resetRegisters.setMem (forgetRam s.launch s.mem)
  andThen (readWord e.vector s1) fun target =>
  .next (s1.setPc target)

/-- Taking an exception of any source (R406). -/
def serveException (e : ExceptionSource) (returnTo : Word) (s : State) : Res State :=
  if e.isReset then takeReset e s else takeException e returnTo s

/-- The return from an exception (R407): CCR is pulled through `writeCcr`, so that X can be cleared and
not set, then B and A, X, Y and the return address; SP rises by nine. -/
def returnFromException (s : State) : Res State :=
  andThen (pullByte s) fun (ccr, s1) =>
  andThen (pullWord (s1.writeCcr ccr)) fun (ba, s2) =>
  andThen (pullWord ((s2.setB (hiByte ba)).setA (loByte ba))) fun (x, s3) =>
  andThen (pullWord (s3.setX x)) fun (y, s4) =>
  andThen (pullWord (s4.setY y)) fun (target, s5) =>
  .next (s5.setPc target)

end Sys2Proof.Machine
end

