-- ==== Sys2Proof/Machine/Flags.lean ====
section
/-! DEFINITION. The flags: the bits of CCR by name (R28), flag updates (R10, R38), and every flag
computation of the spec: ADDn, SUBn and NZn (R11), increment and decrement (R220), complement and
negate (R271), logic (R350), shifts and rotates (R370, R387), multiply (R261), decimal adjust (R216). -/

namespace Sys2Proof.Machine

/-! ### The bits of CCR (R28) -/

/-- CCR.S, bit 7 (R36). -/
def State.flagS (s : State) : Bool := s.ccr.getLsbD 7

/-- CCR.X, bit 6 (R35). -/
def State.flagX (s : State) : Bool := s.ccr.getLsbD 6

/-- CCR.H, bit 5 (R34). -/
def State.flagH (s : State) : Bool := s.ccr.getLsbD 5

/-- CCR.I, bit 4 (R33). -/
def State.flagI (s : State) : Bool := s.ccr.getLsbD 4

/-- CCR.N, bit 3 (R32). -/
def State.flagN (s : State) : Bool := s.ccr.getLsbD 3

/-- CCR.Z, bit 2 (R31). -/
def State.flagZ (s : State) : Bool := s.ccr.getLsbD 2

/-- CCR.V, bit 1 (R30). -/
def State.flagV (s : State) : Bool := s.ccr.getLsbD 1

/-- CCR.C, bit 0 (R29). -/
def State.flagC (s : State) : Bool := s.ccr.getLsbD 0

/-- The CCR byte with the given bits (R28). -/
def packCcr (s x h i n z v c : Bool) : Byte :=
  BitVec.ofBool s ++ BitVec.ofBool x ++ BitVec.ofBool h ++ BitVec.ofBool i ++
    BitVec.ofBool n ++ BitVec.ofBool z ++ BitVec.ofBool v ++ BitVec.ofBool c

/-- What an instruction writes in CCR: a row of R38. `none` leaves the bit unchanged (R10). S and X are
in no row: only `writeCcr` reaches them. -/
structure FlagUpdate where
  h : Option Bool := none
  i : Option Bool := none
  n : Option Bool := none
  z : Option Bool := none
  v : Option Bool := none
  c : Option Bool := none
  deriving DecidableEq, Repr

/-- Writes the bits of an update and leaves every other bit of CCR unchanged (R10). -/
def State.setFlags (u : FlagUpdate) (s : State) : State :=
  s.setCcr (packCcr s.flagS s.flagX (u.h.getD s.flagH) (u.i.getD s.flagI) (u.n.getD s.flagN)
    (u.z.getD s.flagZ) (u.v.getD s.flagV) (u.c.getD s.flagC))

/-! ### ADDn, SUBn, NZn (R11) -/

/-- A result of an addition or subtraction with the flags of R11. -/
structure Alu (w : Nat) where
  r : BitVec w
  n : Bool
  z : Bool
  v : Bool
  c : Bool
  h : Bool
  deriving DecidableEq, Repr

/-- `ADDn(a, b, c)` (R11). -/
def addn {w : Nat} (a b : BitVec w) (c : Bool) : Alu w :=
  let sum := a.toNat + b.toNat + c.toNat
  let r := BitVec.ofNat w sum
  { r := r
    n := r.msb
    z := r == 0
    v := a.msb == b.msb && r.msb != a.msb
    c := decide (2 ^ w ≤ sum)
    h := decide (16 ≤ a.toNat % 16 + b.toNat % 16 + c.toNat) }

/-- `SUBn(a, b, c)` (R11); C is the borrow. No subtraction writes H (R202), so `h` is not used. -/
def subn {w : Nat} (a b : BitVec w) (c : Bool) : Alu w :=
  let r := a - b - BitVec.ofNat w c.toNat
  { r := r
    n := r.msb
    z := r == 0
    v := a.msb != b.msb && r.msb != a.msb
    c := decide (a.toNat < b.toNat + c.toNat)
    h := false }

/-- N, Z, V and C from a result, H unchanged (R202). -/
def Alu.nzvc {w : Nat} (x : Alu w) : FlagUpdate :=
  { n := some x.n, z := some x.z, v := some x.v, c := some x.c }

/-- H, N, Z, V and C from a result: the 8-bit additions (R202). -/
def Alu.hnzvc {w : Nat} (x : Alu w) : FlagUpdate :=
  { h := some x.h, n := some x.n, z := some x.z, v := some x.v, c := some x.c }

/-- `NZn(r)` with V cleared: loads, stores, TAB, TBA, the logic and bit instructions (R38). -/
def nzv0 {w : Nat} (r : BitVec w) : FlagUpdate :=
  { n := some r.msb, z := some (r == 0), v := some false }

/-- `NZn(r)` with V and C cleared: the tests (R250). -/
def nzv0c0 {w : Nat} (r : BitVec w) : FlagUpdate :=
  { n := some r.msb, z := some (r == 0), v := some false, c := some false }

/-- Z alone: INX, INY, DEX, DEY (R220). -/
def zOnly (r : Word) : FlagUpdate := { z := some (r == 0) }

/-- N, V and C cleared, Z set: the clears (R271). -/
def clearFlags : FlagUpdate :=
  { n := some false, z := some true, v := some false, c := some false }

/-! ### One-operand operations

Each gives the result and the flags from the old carry and the operand. The memory, A and B forms of a
mnemonic share one. -/

/-- Increment: V exactly for $7F, C unchanged (R220). -/
def incOp (_ : Bool) (m : Byte) : Byte × FlagUpdate :=
  let r := m + 1
  (r, { n := some r.msb, z := some (r == 0), v := some (m == 0x7F) })

/-- Decrement: V exactly for $80, C unchanged (R220). -/
def decOp (_ : Bool) (m : Byte) : Byte × FlagUpdate :=
  let r := m - 1
  (r, { n := some r.msb, z := some (r == 0), v := some (m == 0x80) })

/-- One's complement: V cleared, C set (R271, R278). -/
def comOp (_ : Bool) (m : Byte) : Byte × FlagUpdate :=
  let r := 0xFF - m
  (r, { n := some r.msb, z := some (r == 0), v := some false, c := some true })

/-- Two's complement: `SUB8($00, m, 0)` (R281). -/
def negOp (_ : Bool) (m : Byte) : Byte × FlagUpdate :=
  let x := subn 0 m false
  (x.r, x.nzvc)

/-- The flags after a shift or rotate: C the bit shifted out, V = N xor C after the shift (R370). -/
def shiftFlags {w : Nat} (r : BitVec w) (out : Bool) : FlagUpdate :=
  { n := some r.msb, z := some (r == 0), v := some (r.msb != out), c := some out }

/-- Shift left by one, 0 enters (R372, R375, R380, R383). -/
def shlOp {w : Nat} (_ : Bool) (m : BitVec w) : BitVec w × FlagUpdate :=
  let r := m <<< 1
  (r, shiftFlags r m.msb)

/-- Logical shift right by one, 0 enters (R376, R379). -/
def lsrOp {w : Nat} (_ : Bool) (m : BitVec w) : BitVec w × FlagUpdate :=
  let r := m >>> 1
  (r, shiftFlags r (m.getLsbD 0))

/-- Arithmetic shift right by one, the top bit keeps its value (R384). -/
def asrOp (_ : Bool) (m : Byte) : Byte × FlagUpdate :=
  let r := m.sshiftRight 1
  (r, shiftFlags r (m.getLsbD 0))

/-- Rotate left through carry: the old C enters bit 0 (R388). -/
def rolOp (c : Bool) (m : Byte) : Byte × FlagUpdate :=
  let r := m.extractLsb' 0 7 ++ BitVec.ofBool c
  (r, shiftFlags r m.msb)

/-- Rotate right through carry: the old C enters bit 7 (R391). -/
def rorOp (c : Bool) (m : Byte) : Byte × FlagUpdate :=
  let r := BitVec.ofBool c ++ m.extractLsb' 1 7
  (r, shiftFlags r (m.getLsbD 0))

/-! ### Multiply (R261) -/

/-- N, Z and C after a 32-bit product: bit 31, zero, bit 15 (R262, R263). -/
def productFlags (p : BitVec 32) : FlagUpdate :=
  { n := some p.msb, z := some (p == 0), c := some (p.getLsbD 15) }

/-! ### Decimal adjust (R216) -/

/-- The states of A, C and H that an addition of two packed-BCD bytes and a carry can leave, in which DAA
computes (D17, A16). They are the `valid` states of R216 but for C = 0, H = 1, A = $00 to $03, which
R216 lists and no such addition leaves: there the model draws, which allows what R216 computes
(DESIGN CHOICE, safe: log 28). -/
def daaValid (a : Byte) (c h : Bool) : Bool :=
  let hi := a.toNat / 16
  let lo := a.toNat % 16
  match c, h with
  | false, false => true
  | false, true => decide (1 ≤ hi) && decide (lo ≤ 3)
  | true, false => decide (hi ≤ 2)
  | true, true => decide (hi ≤ 3) && decide (lo ≤ 3)

/-- Whether $60 is added (R216). -/
def daaHigh (a : Byte) (c : Bool) : Bool :=
  let hi := a.toNat / 16
  let lo := a.toNat % 16
  c || decide (9 < hi) || (hi == 9 && decide (9 < lo))

/-- The correction that DAA adds to A (R216). -/
def daaCorrection (a : Byte) (c h : Bool) : Byte :=
  (if h || decide (9 < a.toNat % 16) then 0x06 else 0x00) + (if daaHigh a c then 0x60 else 0x00)

/-! ### Branch conditions (R302) -/

/-- `C + Z = 0`. -/
def State.condHi (s : State) : Bool := !s.flagC && !s.flagZ

/-- `N xor V = 0`. -/
def State.condGe (s : State) : Bool := s.flagN == s.flagV

/-- `Z + (N xor V) = 0`. -/
def State.condGt (s : State) : Bool := !s.flagZ && s.flagN == s.flagV

end Sys2Proof.Machine
end

