-- ==== Sys2Proof/Machine/Operands.lean ====
section
/-! DEFINITION. The operand forms (R12, R75 to R93): the effective address of every form, the operand
value, and the operations on an operand that the instruction families share. -/

namespace Sys2Proof.Machine

/-- Which operand of its instruction an indexed operand is; it matters to a PC base alone (R6, D7). -/
inductive Slot where
  /-- The one memory operand of an instruction that is no move. -/
  | sole
  | moveSource
  | moveDest
  deriving DecidableEq, Repr

/-- The displacement of `PCBASE` for an operand. -/
def PcBase.displacement (p : PcBase) : Slot → Word
  | .sole => p.general
  | .moveSource => p.moveSource
  | .moveDest => p.moveDest

/-- The base value of an indexed operand (R81). `next` is the address of the next instruction. -/
def baseValue (slot : Slot) (next : Word) (r : IdxBase) (s : State) : Res Word :=
  match r with
  | .x => .next s.x
  | .y => .next s.y
  | .sp => .next s.sp
  | .pc =>
    match s.launch.pcBase with
    | some p => .next (next + p.displacement slot)
    | none => .refused .pcBaseOpen

/-- The value of an auto-modified base register (R83). -/
def State.autoValue (s : State) : AutoBase → Word
  | .x => s.x
  | .y => s.y
  | .sp => s.sp

/-- Changing an auto-modified base register (R83). -/
def State.setAuto (r : AutoBase) (v : Word) (s : State) : State :=
  match r with
  | .x => s.setX v
  | .y => s.setY v
  | .sp => s.setSp v

/-- The adjustment `d`: +1 to +8 for nnnn = 0000 to 0111, -8 to -1 for 1000 to 1111 (R83). -/
def autoDelta (nnnn : BitVec 4) : Word :=
  if nnnn.msb then sext16 nnnn else zext16 nnnn + 1

/-- The offset of an accumulator-offset operand: A and B unsigned, D (R84). -/
def State.accOffset (s : State) : AccOffset → Word
  | .a => zext16 s.a
  | .b => zext16 s.b
  | .d => s.d

/-- The effective address of an indexed operand, with the state after any change of its base register
(R80, R82 to R88). -/
def idxAddress (slot : Slot) (next : Word) (x : Idx) (s : State) : Res (Word × State) :=
  match x with
  | .off5 r n => andThen (baseValue slot next r s) fun base => .next (base + sext16 n, s)
  | .auto r post nnnn =>
    let old := s.autoValue r
    let new := old + autoDelta nnnn
    .next (if post then old else new, s.setAuto r new)
  | .off9 r n => andThen (baseValue slot next r s) fun base => .next (base + sext16 n, s)
  | .off16 r n => andThen (baseValue slot next r s) fun base => .next (base + n, s)
  | .ind16 r n =>
    andThen (baseValue slot next r s) fun base =>
    andThen (readWord (base + n) s) fun ea => .next (ea, s)
  | .acc r o => andThen (baseValue slot next r s) fun base => .next (base + s.accOffset o, s)
  | .indD r =>
    andThen (baseValue slot next r s) fun base =>
    andThen (readWord (base + s.d) s) fun ea => .next (ea, s)

/-- The effective address of an indexed operand of a class (R89). -/
def classAddress (c : IdxClass) (slot : Slot) (next : Word) (x : Idx) (s : State) :
    Res (Word × State) :=
  if x.inClass c then idxAddress slot next x s else .refused (.indexedSubform x)

/-- The effective address of a memory operand (R12, R78, R79, R80), with the state after any change of
a base register. -/
def memAddress (c : IdxClass) (next : Word) (m : Mem) (s : State) : Res (Word × State) :=
  match m with
  | .dir dd => .next (Config.directBase + zext16 dd, s)
  | .ext hhll => .next (hhll, s)
  | .idx x => classAddress c .sole next x s

/-- The value of an 8-bit source operand (R12): the immediate, or the byte at the effective address. -/
def operand8 (next : Word) (o : Opr 8) (s : State) : Res (Byte × State) :=
  match o with
  | .imm ii => .next (ii, s)
  | .mem m =>
    andThen (memAddress .all next m s) fun (ea, s1) =>
    andThen (readByte ea s1) fun v => .next (v, s1)

/-- The value of a 16-bit source operand (R12). -/
def operand16 (next : Word) (o : Opr 16) (s : State) : Res (Word × State) :=
  match o with
  | .imm jjkk => .next (jjkk, s)
  | .mem m =>
    andThen (memAddress .all next m s) fun (ea, s1) =>
    andThen (readWord ea s1) fun v => .next (v, s1)

/-! ### Operations that the families share -/

/-- An instruction whose last act is the advance past its `len` bytes (R27). -/
def Res.done (len : Nat) (s : State) : Res State := .next (s.advance len)

/-- Refuses when the instruction's data register is the base that its operand changes (R83, D24). -/
def unlessAutoBase (r : AutoBase) (changed : Option AutoBase) (go : Res State) : Res State :=
  if changed = some r then .refused .autoBaseIsData else go

/-- An instruction with an 8-bit source operand: opcode and operand bytes, then `f` with the operand's
value, then the next instruction (R435). -/
def withOperand8 (o : Opr 8) (s : State) (f : Byte → State → State) : Res State :=
  let len := 1 + o.length
  andThen (operand8 (s.nextPc len) o s) fun (m, s1) => .next ((f m s1).advance len)

/-- An instruction with a 16-bit source operand (R435). -/
def withOperand16 (o : Opr 16) (s : State) (f : Word → State → State) : Res State :=
  let len := 1 + o.length
  andThen (operand16 (s.nextPc len) o s) fun (m, s1) => .next ((f m s1).advance len)

/-- An instruction that stores a byte: the effective address, the write, then the flags (R131). -/
def storeByte (m : Mem) (v : Byte) (s : State) : Res State :=
  let len := 1 + m.length
  andThen (memAddress .all (s.nextPc len) m s) fun (ea, s1) =>
  andThen (writeByte ea v s1) fun s2 => .next ((s2.setFlags (nzv0 v)).advance len)

/-- An instruction that stores a word (R131). -/
def storeWord (m : Mem) (v : Word) (s : State) : Res State :=
  let len := 1 + m.length
  andThen (memAddress .all (s.nextPc len) m s) fun (ea, s1) =>
  andThen (writeWord ea v s1) fun s2 => .next ((s2.setFlags (nzv0 v)).advance len)

/-- An instruction that reads a byte of memory, computes from the old carry and the byte, and writes
the result back to the same address (R64): the memory forms of the read-modify-write group and
BSET, BCLR. `len` is the length of the instruction. -/
def modifyByte (c : IdxClass) (m : Mem) (len : Nat) (f : Bool → Byte → Byte × FlagUpdate)
    (s : State) : Res State :=
  andThen (memAddress c (s.nextPc len) m s) fun (ea, s1) =>
  andThen (readByte ea s1) fun v =>
  let r := f s1.flagC v
  andThen (writeByte ea r.1 s1) fun s2 => .next ((s2.setFlags r.2).advance len)

/-- The memory form of a one-operand instruction, EXT or IDX of class IDX-all (R220, R271, R370,
R387). -/
def modifyMem (m : MemX) (f : Bool → Byte → Byte × FlagUpdate) (s : State) : Res State :=
  modifyByte .all m.toMem (1 + m.toMem.length) f s

/-- The A form of a one-operand instruction. -/
def modifyA (f : Bool → Byte → Byte × FlagUpdate) (s : State) : Res State :=
  let r := f s.flagC s.a
  .next (((s.setA r.1).setFlags r.2).advance 1)

/-- The B form of a one-operand instruction. -/
def modifyB (f : Bool → Byte → Byte × FlagUpdate) (s : State) : Res State :=
  let r := f s.flagC s.b
  .next (((s.setB r.1).setFlags r.2).advance 1)

/-- The D form of a one-operand instruction (R375, R379, R383). -/
def modifyD (f : Bool → Word → Word × FlagUpdate) (s : State) : Res State :=
  let r := f s.flagC s.d
  .next (((s.setD r.1).setFlags r.2).advance 1)

end Sys2Proof.Machine
end

