-- ==== Sys2Proof/Machine/Arith.lean ====
section
/-! DEFINITION. The meanings: addition, subtraction, decimal adjust, increment and decrement
(spec 42_add_sub_incdec.md). Each meaning performs the whole instruction, the
advance of the program counter included (R27, R435). -/

namespace Sys2Proof.Machine

/-- ABA (R201). -/
def execAba (s : State) : Res State :=
  let u := addn s.a s.b false
  Res.done 2 ((s.setA u.r).setFlags u.hnzvc)

/-- ABX: B is unsigned and no flag is written (R203). -/
def execAbx (s : State) : Res State :=
  Res.done 2 (s.setX (s.x + zext16 s.b))

/-- ABY: B is unsigned and no flag is written (R204). -/
def execAby (s : State) : Res State :=
  Res.done 2 (s.setY (s.y + zext16 s.b))

/-- ADCA (R205). -/
def execAdca (o : Opr 8) (s : State) : Res State :=
  withOperand8 o s fun m s1 =>
    let u := addn s1.a m s1.flagC
    (s1.setA u.r).setFlags u.hnzvc

/-- ADCB (R206). -/
def execAdcb (o : Opr 8) (s : State) : Res State :=
  withOperand8 o s fun m s1 =>
    let u := addn s1.b m s1.flagC
    (s1.setB u.r).setFlags u.hnzvc

/-- ADDA (R207). -/
def execAdda (o : Opr 8) (s : State) : Res State :=
  withOperand8 o s fun m s1 =>
    let u := addn s1.a m false
    (s1.setA u.r).setFlags u.hnzvc

/-- ADDB (R208). -/
def execAddb (o : Opr 8) (s : State) : Res State :=
  withOperand8 o s fun m s1 =>
    let u := addn s1.b m false
    (s1.setB u.r).setFlags u.hnzvc

/-- ADDD, H unchanged (R202) (R209). -/
def execAddd (o : Opr 16) (s : State) : Res State :=
  withOperand16 o s fun m s1 =>
    let u := addn s1.d m false
    (s1.setD u.r).setFlags u.nzvc

/-- SBA (R210). -/
def execSba (s : State) : Res State :=
  let u := subn s.a s.b false
  Res.done 2 ((s.setA u.r).setFlags u.nzvc)

/-- SBCA (R211). -/
def execSbca (o : Opr 8) (s : State) : Res State :=
  withOperand8 o s fun m s1 =>
    let u := subn s1.a m s1.flagC
    (s1.setA u.r).setFlags u.nzvc

/-- SBCB (R212). -/
def execSbcb (o : Opr 8) (s : State) : Res State :=
  withOperand8 o s fun m s1 =>
    let u := subn s1.b m s1.flagC
    (s1.setB u.r).setFlags u.nzvc

/-- SUBA (R213). -/
def execSuba (o : Opr 8) (s : State) : Res State :=
  withOperand8 o s fun m s1 =>
    let u := subn s1.a m false
    (s1.setA u.r).setFlags u.nzvc

/-- SUBB (R214). -/
def execSubb (o : Opr 8) (s : State) : Res State :=
  withOperand8 o s fun m s1 =>
    let u := subn s1.b m false
    (s1.setB u.r).setFlags u.nzvc

/-- SUBD, H unchanged (R202) (R215). -/
def execSubd (o : Opr 16) (s : State) : Res State :=
  withOperand16 o s fun m s1 =>
    let u := subn s1.d m false
    (s1.setD u.r).setFlags u.nzvc

/-- DAA: V is a free value; A, N, Z, V and C are free values where no addition of packed-BCD bytes
leaves A, C and H (R216, D17; log 28). -/
def execDaa (s : State) : Res State :=
  if daaValid s.a s.flagC s.flagH then
    let r := s.a + daaCorrection s.a s.flagC s.flagH
    let c := s.flagC || daaHigh s.a s.flagC
    let (v, s1) := s.drawBit
    Res.done 2 <| (s1.setA r).setFlags
      { n := some r.msb, z := some (r == 0), v := some v, c := some c }
  else
    let (r, s1) := s.drawByte
    let (n, s2) := s1.drawBit
    let (z, s3) := s2.drawBit
    let (v, s4) := s3.drawBit
    let (c, s5) := s4.drawBit
    Res.done 2 <| (s5.setA r).setFlags { n := some n, z := some z, v := some v, c := some c }

/-- DEC (R221). -/
def execDec (m : MemX) (s : State) : Res State :=
  modifyMem m decOp s

/-- DECA (R222). -/
def execDeca (s : State) : Res State :=
  modifyA decOp s

/-- DECB (R223). -/
def execDecb (s : State) : Res State :=
  modifyB decOp s

/-- DES: no flag is written (R224). -/
def execDes (s : State) : Res State :=
  Res.done 2 (s.setSp (s.sp - 1))

/-- DEX (R225). -/
def execDex (s : State) : Res State :=
  let r := s.x - 1
  Res.done 1 ((s.setX r).setFlags (zOnly r))

/-- DEY (R226). -/
def execDey (s : State) : Res State :=
  let r := s.y - 1
  Res.done 1 ((s.setY r).setFlags (zOnly r))

/-- INC (R227). -/
def execInc (m : MemX) (s : State) : Res State :=
  modifyMem m incOp s

/-- INCA (R228). -/
def execInca (s : State) : Res State :=
  modifyA incOp s

/-- INCB (R229). -/
def execIncb (s : State) : Res State :=
  modifyB incOp s

/-- INS: no flag is written (R230). -/
def execIns (s : State) : Res State :=
  Res.done 2 (s.setSp (s.sp + 1))

/-- INX (R231). -/
def execInx (s : State) : Res State :=
  let r := s.x + 1
  Res.done 1 ((s.setX r).setFlags (zOnly r))

/-- INY (R232). -/
def execIny (s : State) : Res State :=
  let r := s.y + 1
  Res.done 1 ((s.setY r).setFlags (zOnly r))

end Sys2Proof.Machine
end

