-- ==== Sys2Proof/Machine/Branch.lean ====
section
/-! DEFINITION. The meanings: branches, bit-condition branches and loop primitives
(spec 44_branch.md). Each meaning performs the whole instruction, the
advance of the program counter included (R27, R435). -/

namespace Sys2Proof.Machine

/-- A branch (R301): `pc + L + rel` when it is taken, else `pc + L`; nothing else changes. -/
def branchIf (taken : Bool) (len : Nat) (rel : Word) (s : State) : Res State :=
  Res.done len (if taken then s.setPc (s.pc + rel) else s)

/-- A branch on the bits of a memory byte, read once and not written (R339). The operand is of class
IDX-noind; its base register changes whether or not the branch is taken. -/
def branchOnByte (m : Mem) (taken : Byte → Bool) (rr : Byte) (s : State) : Res State :=
  let len := 3 + m.length
  andThen (memAddress .noind (s.nextPc len) m s) fun (ea, s1) =>
  andThen (readByte ea s1) fun v => branchIf (taken v) len (sext16 rr) s1

/-- Adds to a loop counter, modulo 2^8 for A and B and modulo 2^16 for D, X, Y and SP, and tells
whether the new value is zero (R342). -/
def State.stepCounter (c : Counter) (delta : Int) (s : State) : Bool × State :=
  match c with
  | .a => let v := s.a + BitVec.ofInt 8 delta; (v == 0, s.setA v)
  | .b => let v := s.b + BitVec.ofInt 8 delta; (v == 0, s.setB v)
  | .d => let v := s.d + BitVec.ofInt 16 delta; (v == 0, s.setD v)
  | .x => let v := s.x + BitVec.ofInt 16 delta; (v == 0, s.setX v)
  | .y => let v := s.y + BitVec.ofInt 16 delta; (v == 0, s.setY v)
  | .sp => let v := s.sp + BitVec.ofInt 16 delta; (v == 0, s.setSp v)

/-- Whether a loop counter is zero (R347, R348). -/
def State.counterIsZero (s : State) : Counter → Bool
  | .a => s.a == 0
  | .b => s.b == 0
  | .d => s.d == 0
  | .x => s.x == 0
  | .y => s.y == 0
  | .sp => s.sp == 0

/-- BRA (R303). -/
def execBra (rr : Byte) (s : State) : Res State :=
  branchIf true 2 (sext16 rr) s

/-- BRN (R304). -/
def execBrn (rr : Byte) (s : State) : Res State :=
  branchIf false 2 (sext16 rr) s

/-- BCC (R305). -/
def execBcc (rr : Byte) (s : State) : Res State :=
  branchIf (!s.flagC) 2 (sext16 rr) s

/-- BCS (R306). -/
def execBcs (rr : Byte) (s : State) : Res State :=
  branchIf s.flagC 2 (sext16 rr) s

/-- BEQ (R307). -/
def execBeq (rr : Byte) (s : State) : Res State :=
  branchIf s.flagZ 2 (sext16 rr) s

/-- BMI (R308). -/
def execBmi (rr : Byte) (s : State) : Res State :=
  branchIf s.flagN 2 (sext16 rr) s

/-- BNE (R309). -/
def execBne (rr : Byte) (s : State) : Res State :=
  branchIf (!s.flagZ) 2 (sext16 rr) s

/-- BPL (R310). -/
def execBpl (rr : Byte) (s : State) : Res State :=
  branchIf (!s.flagN) 2 (sext16 rr) s

/-- BVC (R311). -/
def execBvc (rr : Byte) (s : State) : Res State :=
  branchIf (!s.flagV) 2 (sext16 rr) s

/-- BVS (R312). -/
def execBvs (rr : Byte) (s : State) : Res State :=
  branchIf s.flagV 2 (sext16 rr) s

/-- BHI (R313). -/
def execBhi (rr : Byte) (s : State) : Res State :=
  branchIf s.condHi 2 (sext16 rr) s

/-- BHS (R314). -/
def execBhs (rr : Byte) (s : State) : Res State :=
  branchIf (!s.flagC) 2 (sext16 rr) s

/-- BLO (R315). -/
def execBlo (rr : Byte) (s : State) : Res State :=
  branchIf s.flagC 2 (sext16 rr) s

/-- BLS (R316). -/
def execBls (rr : Byte) (s : State) : Res State :=
  branchIf (!s.condHi) 2 (sext16 rr) s

/-- BGE (R317). -/
def execBge (rr : Byte) (s : State) : Res State :=
  branchIf s.condGe 2 (sext16 rr) s

/-- BGT (R318). -/
def execBgt (rr : Byte) (s : State) : Res State :=
  branchIf s.condGt 2 (sext16 rr) s

/-- BLE (R319). -/
def execBle (rr : Byte) (s : State) : Res State :=
  branchIf (!s.condGt) 2 (sext16 rr) s

/-- BLT (R320). -/
def execBlt (rr : Byte) (s : State) : Res State :=
  branchIf (!s.condGe) 2 (sext16 rr) s

/-- LBRA (R321). -/
def execLbra (qr : Word) (s : State) : Res State :=
  branchIf true 4 qr s

/-- LBRN (R322). -/
def execLbrn (qr : Word) (s : State) : Res State :=
  branchIf false 4 qr s

/-- LBCC (R323). -/
def execLbcc (qr : Word) (s : State) : Res State :=
  branchIf (!s.flagC) 4 qr s

/-- LBCS (R324). -/
def execLbcs (qr : Word) (s : State) : Res State :=
  branchIf s.flagC 4 qr s

/-- LBEQ (R325). -/
def execLbeq (qr : Word) (s : State) : Res State :=
  branchIf s.flagZ 4 qr s

/-- LBMI (R326). -/
def execLbmi (qr : Word) (s : State) : Res State :=
  branchIf s.flagN 4 qr s

/-- LBNE (R327). -/
def execLbne (qr : Word) (s : State) : Res State :=
  branchIf (!s.flagZ) 4 qr s

/-- LBPL (R328). -/
def execLbpl (qr : Word) (s : State) : Res State :=
  branchIf (!s.flagN) 4 qr s

/-- LBVC (R329). -/
def execLbvc (qr : Word) (s : State) : Res State :=
  branchIf (!s.flagV) 4 qr s

/-- LBVS (R330). -/
def execLbvs (qr : Word) (s : State) : Res State :=
  branchIf s.flagV 4 qr s

/-- LBHI (R331). -/
def execLbhi (qr : Word) (s : State) : Res State :=
  branchIf s.condHi 4 qr s

/-- LBHS (R332). -/
def execLbhs (qr : Word) (s : State) : Res State :=
  branchIf (!s.flagC) 4 qr s

/-- LBLO (R333). -/
def execLblo (qr : Word) (s : State) : Res State :=
  branchIf s.flagC 4 qr s

/-- LBLS (R334). -/
def execLbls (qr : Word) (s : State) : Res State :=
  branchIf (!s.condHi) 4 qr s

/-- LBGE (R335). -/
def execLbge (qr : Word) (s : State) : Res State :=
  branchIf s.condGe 4 qr s

/-- LBGT (R336). -/
def execLbgt (qr : Word) (s : State) : Res State :=
  branchIf s.condGt 4 qr s

/-- LBLE (R337). -/
def execLble (qr : Word) (s : State) : Res State :=
  branchIf (!s.condGt) 4 qr s

/-- LBLT (R338). -/
def execLblt (qr : Word) (s : State) : Res State :=
  branchIf (!s.condGe) 4 qr s

/-- BRCLR: taken when every bit of the mask is clear in the byte (R340). -/
def execBrclr (m : Mem) (mm rr : Byte) (s : State) : Res State :=
  branchOnByte m (fun v => v &&& mm == 0) rr s

/-- BRSET: taken when every bit of the mask is set in the byte (R341). -/
def execBrset (m : Mem) (mm rr : Byte) (s : State) : Res State :=
  branchOnByte m (fun v => ~~~v &&& mm == 0) rr s

/-- DBEQ (R343). -/
def execDbeq (c : Counter) (rel : BitVec 9) (s : State) : Res State :=
  let r := s.stepCounter c (-1)
  branchIf r.1 3 (sext16 rel) r.2

/-- DBNE (R344). -/
def execDbne (c : Counter) (rel : BitVec 9) (s : State) : Res State :=
  let r := s.stepCounter c (-1)
  branchIf (!r.1) 3 (sext16 rel) r.2

/-- IBEQ (R345). -/
def execIbeq (c : Counter) (rel : BitVec 9) (s : State) : Res State :=
  let r := s.stepCounter c 1
  branchIf r.1 3 (sext16 rel) r.2

/-- IBNE (R346). -/
def execIbne (c : Counter) (rel : BitVec 9) (s : State) : Res State :=
  let r := s.stepCounter c 1
  branchIf (!r.1) 3 (sext16 rel) r.2

/-- TBEQ: the counter is not changed (R347). -/
def execTbeq (c : Counter) (rel : BitVec 9) (s : State) : Res State :=
  branchIf (s.counterIsZero c) 3 (sext16 rel) s

/-- TBNE: the counter is not changed (R348). -/
def execTbne (c : Counter) (rel : BitVec 9) (s : State) : Res State :=
  branchIf (!s.counterIsZero c) 3 (sext16 rel) s

end Sys2Proof.Machine
end

