-- ==== Sys2Proof/Machine/CmpMulDiv.lean ====
section
/-! DEFINITION. The meanings: compare, test, multiply, divide, clear, complement and negate
(spec 43_cmp_mul_div_clr.md). Each meaning performs the whole instruction, the
advance of the program counter included (R27, R435). -/

namespace Sys2Proof.Machine

/-- Y:D, the 32-bit operand of EDIV and EDIVS (R265): Y is the more significant word. -/
def State.yd (s : State) : BitVec 32 := s.y ++ s.d

/-- Writing Y:D (R261). -/
def State.setYD (p : BitVec 32) (s : State) : State :=
  (s.setY (p.extractLsb' 16 16)).setD (p.extractLsb' 0 16)

/-- N and Z of a quotient that fits, V and C cleared (R266, R267, R270). -/
def quotientFlags (q : Word) : FlagUpdate :=
  { n := some q.msb, z := some (q == 0), v := some false, c := some false }

/-- The flags of a divide that gives no quotient (R266, R267, R270): C tells a zero divisor. After it
N, Z and V are free values; after an overflow V is set and N and Z are free values. -/
def State.failedFlags (zeroDivisor : Bool) (s : State) : State :=
  let (n, s1) := s.drawBit
  let (z, s2) := s1.drawBit
  if zeroDivisor then
    let (v, s3) := s2.drawBit
    s3.setFlags { n := some n, z := some z, v := some v, c := some true }
  else s2.setFlags { n := some n, z := some z, v := some true, c := some false }

/-- A 32 by 16 divide that gives no quotient: Y and D are free values (R266, R267). -/
def State.failedDivide (zeroDivisor : Bool) (s : State) : State :=
  let (q, s1) := (s.failedFlags zeroDivisor).drawWord
  let (r, s2) := s1.drawWord
  (s2.setY q).setD r

/-- A 16 by 16 signed divide that gives no quotient: X and D are free values (R270). -/
def State.failedDivide16 (zeroDivisor : Bool) (s : State) : State :=
  let (q, s1) := (s.failedFlags zeroDivisor).drawWord
  let (r, s2) := s1.drawWord
  (s2.setX q).setD r

/-- CBA (R251). -/
def execCba (s : State) : Res State :=
  Res.done 2 (s.setFlags (subn s.a s.b false).nzvc)

/-- CMPA (R252). -/
def execCmpa (o : Opr 8) (s : State) : Res State :=
  withOperand8 o s fun m s1 => s1.setFlags (subn s1.a m false).nzvc

/-- CMPB (R253). -/
def execCmpb (o : Opr 8) (s : State) : Res State :=
  withOperand8 o s fun m s1 => s1.setFlags (subn s1.b m false).nzvc

/-- CPD (R254). -/
def execCpd (o : Opr 16) (s : State) : Res State :=
  withOperand16 o s fun m s1 => s1.setFlags (subn s1.d m false).nzvc

/-- CPS (R255). -/
def execCps (o : Opr 16) (s : State) : Res State :=
  unlessAutoBase .sp o.autoBase <|
    withOperand16 o s fun m s1 => s1.setFlags (subn s1.sp m false).nzvc

/-- CPX (R256). -/
def execCpx (o : Opr 16) (s : State) : Res State :=
  unlessAutoBase .x o.autoBase <|
    withOperand16 o s fun m s1 => s1.setFlags (subn s1.x m false).nzvc

/-- CPY (R257). -/
def execCpy (o : Opr 16) (s : State) : Res State :=
  unlessAutoBase .y o.autoBase <|
    withOperand16 o s fun m s1 => s1.setFlags (subn s1.y m false).nzvc

/-- TST: the byte is read and not written (R258). -/
def execTst (m : MemX) (s : State) : Res State :=
  let len := 1 + m.toMem.length
  andThen (memAddress .all (s.nextPc len) m.toMem s) fun (ea, s1) =>
  andThen (readByte ea s1) fun v => Res.done len (s1.setFlags (nzv0c0 v))

/-- TSTA (R259). -/
def execTsta (s : State) : Res State :=
  Res.done 1 (s.setFlags (nzv0c0 s.a))

/-- TSTB (R260). -/
def execTstb (s : State) : Res State :=
  Res.done 1 (s.setFlags (nzv0c0 s.b))

/-- EMUL: D times Y, unsigned, to Y:D (R262). -/
def execEmul (s : State) : Res State :=
  let p := s.d.setWidth 32 * s.y.setWidth 32
  Res.done 1 ((s.setYD p).setFlags (productFlags p))

/-- EMULS: D times Y, signed, to Y:D (R263). -/
def execEmuls (s : State) : Res State :=
  let p := s.d.signExtend 32 * s.y.signExtend 32
  Res.done 2 ((s.setYD p).setFlags (productFlags p))

/-- MUL: A times B, unsigned, to D; C alone is written (R261, R264). -/
def execMul (s : State) : Res State :=
  let p := zext16 s.a * zext16 s.b
  Res.done 1 ((s.setD p).setFlags { c := some (p.getLsbD 7) })

/-- EDIV: Y:D by X, unsigned (R266). -/
def execEdiv (s : State) : Res State :=
  let n := s.yd.toNat
  let d := s.x.toNat
  if d = 0 then Res.done 1 (s.failedDivide true)
  else if 0xFFFF < n / d then Res.done 1 (s.failedDivide false)
  else
    let q := BitVec.ofNat 16 (n / d)
    Res.done 1 <| ((s.setY q).setD (BitVec.ofNat 16 (n % d))).setFlags (quotientFlags q)

/-- EDIVS: Y:D by X, signed, truncating toward zero (R265, R267). -/
def execEdivs (s : State) : Res State :=
  let n := s.yd.toInt
  let d := s.x.toInt
  if d = 0 then Res.done 2 (s.failedDivide true)
  else if 32767 < n.tdiv d ∨ n.tdiv d < -32768 then Res.done 2 (s.failedDivide false)
  else
    let q := BitVec.ofInt 16 (n.tdiv d)
    Res.done 2 <| ((s.setY q).setD (BitVec.ofInt 16 (n.tmod d))).setFlags (quotientFlags q)

/-- FDIV: the fraction D / X, N unchanged; D is a free value where the quotient is no fraction
(R268). -/
def execFdiv (s : State) : Res State :=
  let n := s.d.toNat
  let d := s.x.toNat
  if d ≤ n then
    let (r, s1) := s.drawWord
    Res.done 2 <| ((s1.setX 0xFFFF).setD r).setFlags
      { z := some false, v := some true, c := some (d == 0) }
  else
    let q := BitVec.ofNat 16 (n * 65536 / d)
    Res.done 2 <| ((s.setX q).setD (BitVec.ofNat 16 (n * 65536 % d))).setFlags
      { z := some (q == 0), v := some false, c := some false }

/-- IDIV: D by X, unsigned, N unchanged; D is a free value after a zero divisor (R269). -/
def execIdiv (s : State) : Res State :=
  if s.x = 0 then
    let (r, s1) := s.drawWord
    Res.done 2 <| ((s1.setX 0xFFFF).setD r).setFlags
      { z := some false, v := some false, c := some true }
  else
    let q := s.d / s.x
    Res.done 2 <| ((s.setX q).setD (s.d % s.x)).setFlags
      { z := some (q == 0), v := some false, c := some false }

/-- IDIVS: D by X, signed, truncating toward zero (R265, R270). -/
def execIdivs (s : State) : Res State :=
  let n := s.d.toInt
  let d := s.x.toInt
  if d = 0 then Res.done 2 (s.failedDivide16 true)
  else if 32767 < n.tdiv d then Res.done 2 (s.failedDivide16 false)
  else
    let q := BitVec.ofInt 16 (n.tdiv d)
    Res.done 2 <| ((s.setX q).setD (BitVec.ofInt 16 (n.tmod d))).setFlags (quotientFlags q)

/-- CLC (R272). -/
def execClc (s : State) : Res State :=
  Res.done 2 (s.setFlags { c := some false })

/-- CLI (R273). -/
def execCli (s : State) : Res State :=
  Res.done 2 (s.setFlags { i := some false })

/-- CLR: the byte is written and not read (R274). -/
def execClr (m : MemX) (s : State) : Res State :=
  let len := 1 + m.toMem.length
  andThen (memAddress .all (s.nextPc len) m.toMem s) fun (ea, s1) =>
  andThen (writeByte ea 0 s1) fun s2 => Res.done len (s2.setFlags clearFlags)

/-- CLRA (R275). -/
def execClra (s : State) : Res State :=
  Res.done 1 ((s.setA 0).setFlags clearFlags)

/-- CLRB (R276). -/
def execClrb (s : State) : Res State :=
  Res.done 1 ((s.setB 0).setFlags clearFlags)

/-- CLV (R277). -/
def execClv (s : State) : Res State :=
  Res.done 2 (s.setFlags { v := some false })

/-- COM (R278). -/
def execCom (m : MemX) (s : State) : Res State :=
  modifyMem m comOp s

/-- COMA (R279). -/
def execComa (s : State) : Res State :=
  modifyA comOp s

/-- COMB (R280). -/
def execComb (s : State) : Res State :=
  modifyB comOp s

/-- NEG (R281). -/
def execNeg (m : MemX) (s : State) : Res State :=
  modifyMem m negOp s

/-- NEGA (R282). -/
def execNega (s : State) : Res State :=
  modifyA negOp s

/-- NEGB (R283). -/
def execNegb (s : State) : Res State :=
  modifyB negOp s

end Sys2Proof.Machine
end

