-- ==== Sys2Proof/Machine/LoadStore.lean ====
section
/-! DEFINITION. The meanings: loads, load effective address and stores
(spec 40_load_store.md). Each meaning performs the whole instruction, the
advance of the program counter included (R27, R435). -/

namespace Sys2Proof.Machine

/-- Load effective address: the address of an indexed operand of class IDX-noind goes to a register
(R127). -/
def loadAddress (write : Word → State → State) (x : Idx) (s : State) : Res State :=
  let len := 1 + x.length
  andThen (classAddress .noind .sole (s.nextPc len) x s) fun (ea, s1) =>
  .next ((write ea s1).advance len)

/-- LDAA: A takes the operand's value (R121). -/
def execLdaa (o : Opr 8) (s : State) : Res State :=
  withOperand8 o s fun m s1 => (s1.setA m).setFlags (nzv0 m)

/-- LDAB: B takes the operand's value (R122). -/
def execLdab (o : Opr 8) (s : State) : Res State :=
  withOperand8 o s fun m s1 => (s1.setB m).setFlags (nzv0 m)

/-- LDD: A and B take the operand's bytes (R123). -/
def execLdd (o : Opr 16) (s : State) : Res State :=
  withOperand16 o s fun m s1 => (s1.setD m).setFlags (nzv0 m)

/-- LDS: SP takes the operand's value (R124). -/
def execLds (o : Opr 16) (s : State) : Res State :=
  unlessAutoBase .sp o.autoBase <|
    withOperand16 o s fun m s1 => (s1.setSp m).setFlags (nzv0 m)

/-- LDX: X takes the operand's value (R125). -/
def execLdx (o : Opr 16) (s : State) : Res State :=
  unlessAutoBase .x o.autoBase <|
    withOperand16 o s fun m s1 => (s1.setX m).setFlags (nzv0 m)

/-- LDY: Y takes the operand's value (R126). -/
def execLdy (o : Opr 16) (s : State) : Res State :=
  unlessAutoBase .y o.autoBase <|
    withOperand16 o s fun m s1 => (s1.setY m).setFlags (nzv0 m)

/-- LEAS: SP takes the effective address; memory is read by no sub-form of the class (R128). -/
def execLeas (x : Idx) (s : State) : Res State :=
  unlessAutoBase .sp (Mem.idx x).autoBase (loadAddress State.setSp x s)

/-- LEAX: X takes the effective address; memory is read by no sub-form of the class (R129). -/
def execLeax (x : Idx) (s : State) : Res State :=
  unlessAutoBase .x (Mem.idx x).autoBase (loadAddress State.setX x s)

/-- LEAY: Y takes the effective address; memory is read by no sub-form of the class (R130). -/
def execLeay (x : Idx) (s : State) : Res State :=
  unlessAutoBase .y (Mem.idx x).autoBase (loadAddress State.setY x s)

/-- STAA (R132). -/
def execStaa (m : Mem) (s : State) : Res State :=
  storeByte m s.a s

/-- STAB (R133). -/
def execStab (m : Mem) (s : State) : Res State :=
  storeByte m s.b s

/-- STD: A at the effective address, B after it (R134). -/
def execStd (m : Mem) (s : State) : Res State :=
  storeWord m s.d s

/-- STS (R135). -/
def execSts (m : Mem) (s : State) : Res State :=
  unlessAutoBase .sp m.autoBase (storeWord m s.sp s)

/-- STX (R136). -/
def execStx (m : Mem) (s : State) : Res State :=
  unlessAutoBase .x m.autoBase (storeWord m s.x s)

/-- STY (R137). -/
def execSty (m : Mem) (s : State) : Res State :=
  unlessAutoBase .y m.autoBase (storeWord m s.y s)

end Sys2Proof.Machine
end

