-- ==== Sys2Proof/Machine/Logic.lean ====
section
/-! DEFINITION. The meanings: logic, bit test and bit manipulation
(spec 45_logic_bit.md). Each meaning performs the whole instruction, the
advance of the program counter included (R27, R435). -/

namespace Sys2Proof.Machine

/-- ANDA (R351). -/
def execAnda (o : Opr 8) (s : State) : Res State :=
  withOperand8 o s fun m s1 =>
    let r := s1.a &&& m
    (s1.setA r).setFlags (nzv0 r)

/-- ANDB (R352). -/
def execAndb (o : Opr 8) (s : State) : Res State :=
  withOperand8 o s fun m s1 =>
    let r := s1.b &&& m
    (s1.setB r).setFlags (nzv0 r)

/-- ANDCC (R353). -/
def execAndcc (ii : Byte) (s : State) : Res State :=
  Res.done 2 (s.writeCcr (s.ccr &&& ii))

/-- EORA (R354). -/
def execEora (o : Opr 8) (s : State) : Res State :=
  withOperand8 o s fun m s1 =>
    let r := s1.a ^^^ m
    (s1.setA r).setFlags (nzv0 r)

/-- EORB (R355). -/
def execEorb (o : Opr 8) (s : State) : Res State :=
  withOperand8 o s fun m s1 =>
    let r := s1.b ^^^ m
    (s1.setB r).setFlags (nzv0 r)

/-- ORAA (R356). -/
def execOraa (o : Opr 8) (s : State) : Res State :=
  withOperand8 o s fun m s1 =>
    let r := s1.a ||| m
    (s1.setA r).setFlags (nzv0 r)

/-- ORAB (R357). -/
def execOrab (o : Opr 8) (s : State) : Res State :=
  withOperand8 o s fun m s1 =>
    let r := s1.b ||| m
    (s1.setB r).setFlags (nzv0 r)

/-- ORCC: X is not set (R37) (R358). -/
def execOrcc (ii : Byte) (s : State) : Res State :=
  Res.done 2 (s.writeCcr (s.ccr ||| ii))

/-- BCLR: the bits of the mask are cleared (R361). -/
def execBclr (m : Mem) (mm : Byte) (s : State) : Res State :=
  modifyByte .noind m (2 + m.length) (fun _ v => (v &&& ~~~mm, nzv0 (v &&& ~~~mm))) s

/-- BITA (R362). -/
def execBita (o : Opr 8) (s : State) : Res State :=
  withOperand8 o s fun m s1 => s1.setFlags (nzv0 (s1.a &&& m))

/-- BITB (R363). -/
def execBitb (o : Opr 8) (s : State) : Res State :=
  withOperand8 o s fun m s1 => s1.setFlags (nzv0 (s1.b &&& m))

/-- BSET: the bits of the mask are set (R364). -/
def execBset (m : Mem) (mm : Byte) (s : State) : Res State :=
  modifyByte .noind m (2 + m.length) (fun _ v => (v ||| mm, nzv0 (v ||| mm))) s

end Sys2Proof.Machine
end

