-- ==== Sys2Proof/Machine/Shift.lean ====
section
/-! DEFINITION. The meanings: shifts and rotates
(spec 46_shift_rotate.md). Each meaning performs the whole instruction, the
advance of the program counter included (R27, R435). -/

namespace Sys2Proof.Machine

/-- LSL (R372). -/
def execLsl (m : MemX) (s : State) : Res State :=
  modifyMem m shlOp s

/-- LSLA (R373). -/
def execLsla (s : State) : Res State :=
  modifyA shlOp s

/-- LSLB (R374). -/
def execLslb (s : State) : Res State :=
  modifyB shlOp s

/-- LSLD (R375). -/
def execLsld (s : State) : Res State :=
  modifyD shlOp s

/-- LSR (R376). -/
def execLsr (m : MemX) (s : State) : Res State :=
  modifyMem m lsrOp s

/-- LSRA (R377). -/
def execLsra (s : State) : Res State :=
  modifyA lsrOp s

/-- LSRB (R378). -/
def execLsrb (s : State) : Res State :=
  modifyB lsrOp s

/-- LSRD (R379). -/
def execLsrd (s : State) : Res State :=
  modifyD lsrOp s

/-- ASL (R380). -/
def execAsl (m : MemX) (s : State) : Res State :=
  modifyMem m shlOp s

/-- ASLA (R381). -/
def execAsla (s : State) : Res State :=
  modifyA shlOp s

/-- ASLB (R382). -/
def execAslb (s : State) : Res State :=
  modifyB shlOp s

/-- ASLD (R383). -/
def execAsld (s : State) : Res State :=
  modifyD shlOp s

/-- ASR (R384). -/
def execAsr (m : MemX) (s : State) : Res State :=
  modifyMem m asrOp s

/-- ASRA (R385). -/
def execAsra (s : State) : Res State :=
  modifyA asrOp s

/-- ASRB (R386). -/
def execAsrb (s : State) : Res State :=
  modifyB asrOp s

/-- ROL (R388). -/
def execRol (m : MemX) (s : State) : Res State :=
  modifyMem m rolOp s

/-- ROLA (R389). -/
def execRola (s : State) : Res State :=
  modifyA rolOp s

/-- ROLB (R390). -/
def execRolb (s : State) : Res State :=
  modifyB rolOp s

/-- ROR (R391). -/
def execRor (m : MemX) (s : State) : Res State :=
  modifyMem m rorOp s

/-- RORA (R392). -/
def execRora (s : State) : Res State :=
  modifyA rorOp s

/-- RORB (R393). -/
def execRorb (s : State) : Res State :=
  modifyB rorOp s

end Sys2Proof.Machine
end

