-- ==== Sys2Proof/Machine/Transfer.lean ====
section
/-! DEFINITION. The meanings: transfer, exchange, sign extension, move and stack
(spec 41_transfer_move_stack.md). Each meaning performs the whole instruction, the
advance of the program counter included (R27, R435). -/

namespace Sys2Proof.Machine

/-- The address of a move's operand in memory, with the state after any change of its base register
(R165). -/
def moveAddress (slot : Slot) (next : Word) (m : MemX) (s : State) : Res (Word × State) :=
  match m with
  | .ext hhll => .next (hhll, s)
  | .idx x => classAddress .short slot next x s

/-- The value of a move's source (R165): the immediate, or the memory operand. -/
def moveSource {w : Nat} (read : Word → State → Res (BitVec w)) (next : Word) (m : Mov w)
    (s : State) : Res (BitVec w × State) :=
  match m.source with
  | .inl v => .next (v, s)
  | .inr x =>
    andThen (moveAddress .moveSource next x s) fun (a, s1) =>
    andThen (read a s1) fun v => .next (v, s1)

/-- A move (R165): the source's address with its auto-modification, the source read, the destination's
address with its auto-modification, the write. One base register that both operands change is
refused (D24). -/
def move {w : Nat} (read : Word → State → Res (BitVec w))
    (write : Word → BitVec w → State → Res State) (m : Mov w) (s : State) : Res State :=
  let len := 2 + m.length
  if m.sourceAuto ≠ none ∧ m.sourceAuto = m.destAuto then .refused .moveSharesAutoBase
  else
    andThen (moveSource read (s.nextPc len) m s) fun (v, s1) =>
    andThen (moveAddress .moveDest (s.nextPc len) m.dest s1) fun (b, s2) =>
    andThen (write b v s2) fun s3 => Res.done len s3

/-- TAB (R151). -/
def execTab (s : State) : Res State :=
  Res.done 2 ((s.setB s.a).setFlags (nzv0 s.a))

/-- TAP (R152). -/
def execTap (s : State) : Res State :=
  Res.done 2 (s.writeCcr s.a)

/-- TBA (R153). -/
def execTba (s : State) : Res State :=
  Res.done 2 ((s.setA s.b).setFlags (nzv0 s.b))

/-- TFR: equal widths copy, 8 to 16 bits extends the sign, 16 to 8 bits takes the low byte (R154).
-/
def execTfr (r R : Reg) (s : State) : Res State :=
  Res.done 2 <|
    match r, R with
    | .r8 r, .r8 R => s.write8 R (s.read8 r)
    | .r8 r, .r16 R => s.write16 R (sext16 (s.read8 r))
    | .r16 r, .r8 R => s.write8 R (loByte (s.read16 r))
    | .r16 r, .r16 R => s.write16 R (s.read16 r)

/-- TPA (R155). -/
def execTpa (s : State) : Res State :=
  Res.done 2 (s.setA s.ccr)

/-- TSX (R156). -/
def execTsx (s : State) : Res State :=
  Res.done 2 (s.setX s.sp)

/-- TSY (R157). -/
def execTsy (s : State) : Res State :=
  Res.done 2 (s.setY s.sp)

/-- TXS (R158). -/
def execTxs (s : State) : Res State :=
  Res.done 2 (s.setSp s.x)

/-- TYS (R159). -/
def execTys (s : State) : Res State :=
  Res.done 2 (s.setSp s.y)

/-- EXG: both registers are read before either is written; unequal widths have no meaning (R161)
(R160). -/
def execExg (r R : Reg) (s : State) : Res State :=
  match r, R with
  | .r8 r, .r8 R => Res.done 2 ((s.write8 r (s.read8 R)).write8 R (s.read8 r))
  | .r16 r, .r16 R => Res.done 2 ((s.write16 r (s.read16 R)).write16 R (s.read16 r))
  | .r8 _, .r16 _ => .refused .exchangeWidths
  | .r16 _, .r8 _ => .refused .exchangeWidths

/-- XGDX (R162). -/
def execXgdx (s : State) : Res State :=
  Res.done 2 ((s.setD s.x).setX s.d)

/-- XGDY (R163). -/
def execXgdy (s : State) : Res State :=
  Res.done 2 ((s.setD s.y).setY s.d)

/-- SEX (R164). -/
def execSex (r : Reg8) (R : Reg16) (s : State) : Res State :=
  Res.done 2 (s.write16 R (sext16 (s.read8 r)))

/-- MOVB (R166). -/
def execMovb (m : Mov 8) (s : State) : Res State :=
  move readByte writeByte m s

/-- MOVW (R167). -/
def execMovw (m : Mov 16) (s : State) : Res State :=
  move readWord writeWord m s

/-- PSHA (R169). -/
def execPsha (s : State) : Res State :=
  andThen (pushByte s.a s) fun s1 => Res.done 1 s1

/-- PSHB (R170). -/
def execPshb (s : State) : Res State :=
  andThen (pushByte s.b s) fun s1 => Res.done 1 s1

/-- PSHC (R171). -/
def execPshc (s : State) : Res State :=
  andThen (pushByte s.ccr s) fun s1 => Res.done 1 s1

/-- PSHD (R172). -/
def execPshd (s : State) : Res State :=
  andThen (pushWord s.d s) fun s1 => Res.done 1 s1

/-- PSHX (R173). -/
def execPshx (s : State) : Res State :=
  andThen (pushWord s.x s) fun s1 => Res.done 1 s1

/-- PSHY (R174). -/
def execPshy (s : State) : Res State :=
  andThen (pushWord s.y s) fun s1 => Res.done 1 s1

/-- PULA (R175). -/
def execPula (s : State) : Res State :=
  andThen (pullByte s) fun (v, s1) => Res.done 1 (s1.setA v)

/-- PULB (R176). -/
def execPulb (s : State) : Res State :=
  andThen (pullByte s) fun (v, s1) => Res.done 1 (s1.setB v)

/-- PULC (R177). -/
def execPulc (s : State) : Res State :=
  andThen (pullByte s) fun (v, s1) => Res.done 1 (s1.writeCcr v)

/-- PULD (R178). -/
def execPuld (s : State) : Res State :=
  andThen (pullWord s) fun (v, s1) => Res.done 1 (s1.setD v)

/-- PULX (R179). -/
def execPulx (s : State) : Res State :=
  andThen (pullWord s) fun (v, s1) => Res.done 1 (s1.setX v)

/-- PULY (R180). -/
def execPuly (s : State) : Res State :=
  andThen (pullWord s) fun (v, s1) => Res.done 1 (s1.setY v)

end Sys2Proof.Machine
end

