-- ==== Sys2Proof/Machine/Dispatch.lean ====
section
/-! DEFINITION. The dispatch: one arm for each instruction. -/

namespace Sys2Proof.Machine

def exec (i : Instr) (s : State) : Host.Outcome State Fault Refusal :=
  match i with
  -- Load, load effective address, store (40_load_store.md)
  | .ldaa o => Sys2Proof.Machine.execLdaa o s
  | .ldab o => Sys2Proof.Machine.execLdab o s
  | .ldd o => Sys2Proof.Machine.execLdd o s
  | .lds o => Sys2Proof.Machine.execLds o s
  | .ldx o => Sys2Proof.Machine.execLdx o s
  | .ldy o => Sys2Proof.Machine.execLdy o s
  | .leas x => Sys2Proof.Machine.execLeas x s
  | .leax x => Sys2Proof.Machine.execLeax x s
  | .leay x => Sys2Proof.Machine.execLeay x s
  | .staa m => Sys2Proof.Machine.execStaa m s
  | .stab m => Sys2Proof.Machine.execStab m s
  | .std m => Sys2Proof.Machine.execStd m s
  | .sts m => Sys2Proof.Machine.execSts m s
  | .stx m => Sys2Proof.Machine.execStx m s
  | .sty m => Sys2Proof.Machine.execSty m s
  -- Transfer, exchange, sign-extend, move, stack (41_transfer_move_stack.md)
  | .tab => Sys2Proof.Machine.execTab s
  | .tap => Sys2Proof.Machine.execTap s
  | .tba => Sys2Proof.Machine.execTba s
  | .tfr r R => Sys2Proof.Machine.execTfr r R s
  | .tpa => Sys2Proof.Machine.execTpa s
  | .tsx => Sys2Proof.Machine.execTsx s
  | .tsy => Sys2Proof.Machine.execTsy s
  | .txs => Sys2Proof.Machine.execTxs s
  | .tys => Sys2Proof.Machine.execTys s
  | .exg r R => Sys2Proof.Machine.execExg r R s
  | .xgdx => Sys2Proof.Machine.execXgdx s
  | .xgdy => Sys2Proof.Machine.execXgdy s
  | .sex r R => Sys2Proof.Machine.execSex r R s
  | .movb m => Sys2Proof.Machine.execMovb m s
  | .movw m => Sys2Proof.Machine.execMovw m s
  | .psha => Sys2Proof.Machine.execPsha s
  | .pshb => Sys2Proof.Machine.execPshb s
  | .pshc => Sys2Proof.Machine.execPshc s
  | .pshd => Sys2Proof.Machine.execPshd s
  | .pshx => Sys2Proof.Machine.execPshx s
  | .pshy => Sys2Proof.Machine.execPshy s
  | .pula => Sys2Proof.Machine.execPula s
  | .pulb => Sys2Proof.Machine.execPulb s
  | .pulc => Sys2Proof.Machine.execPulc s
  | .puld => Sys2Proof.Machine.execPuld s
  | .pulx => Sys2Proof.Machine.execPulx s
  | .puly => Sys2Proof.Machine.execPuly s
  -- Add, subtract, decimal adjust, increment, decrement (42_add_sub_incdec.md)
  | .aba => Sys2Proof.Machine.execAba s
  | .abx => Sys2Proof.Machine.execAbx s
  | .aby => Sys2Proof.Machine.execAby s
  | .adca o => Sys2Proof.Machine.execAdca o s
  | .adcb o => Sys2Proof.Machine.execAdcb o s
  | .adda o => Sys2Proof.Machine.execAdda o s
  | .addb o => Sys2Proof.Machine.execAddb o s
  | .addd o => Sys2Proof.Machine.execAddd o s
  | .sba => Sys2Proof.Machine.execSba s
  | .sbca o => Sys2Proof.Machine.execSbca o s
  | .sbcb o => Sys2Proof.Machine.execSbcb o s
  | .suba o => Sys2Proof.Machine.execSuba o s
  | .subb o => Sys2Proof.Machine.execSubb o s
  | .subd o => Sys2Proof.Machine.execSubd o s
  | .daa => Sys2Proof.Machine.execDaa s
  | .dec m => Sys2Proof.Machine.execDec m s
  | .deca => Sys2Proof.Machine.execDeca s
  | .decb => Sys2Proof.Machine.execDecb s
  | .des => Sys2Proof.Machine.execDes s
  | .dex => Sys2Proof.Machine.execDex s
  | .dey => Sys2Proof.Machine.execDey s
  | .inc m => Sys2Proof.Machine.execInc m s
  | .inca => Sys2Proof.Machine.execInca s
  | .incb => Sys2Proof.Machine.execIncb s
  | .ins => Sys2Proof.Machine.execIns s
  | .inx => Sys2Proof.Machine.execInx s
  | .iny => Sys2Proof.Machine.execIny s
  -- Compare, test, multiply, divide, clear, complement, negate (43_cmp_mul_div_clr.md)
  | .cba => Sys2Proof.Machine.execCba s
  | .cmpa o => Sys2Proof.Machine.execCmpa o s
  | .cmpb o => Sys2Proof.Machine.execCmpb o s
  | .cpd o => Sys2Proof.Machine.execCpd o s
  | .cps o => Sys2Proof.Machine.execCps o s
  | .cpx o => Sys2Proof.Machine.execCpx o s
  | .cpy o => Sys2Proof.Machine.execCpy o s
  | .tst m => Sys2Proof.Machine.execTst m s
  | .tsta => Sys2Proof.Machine.execTsta s
  | .tstb => Sys2Proof.Machine.execTstb s
  | .emul => Sys2Proof.Machine.execEmul s
  | .emuls => Sys2Proof.Machine.execEmuls s
  | .mul => Sys2Proof.Machine.execMul s
  | .ediv => Sys2Proof.Machine.execEdiv s
  | .edivs => Sys2Proof.Machine.execEdivs s
  | .fdiv => Sys2Proof.Machine.execFdiv s
  | .idiv => Sys2Proof.Machine.execIdiv s
  | .idivs => Sys2Proof.Machine.execIdivs s
  | .clc => Sys2Proof.Machine.execClc s
  | .cli => Sys2Proof.Machine.execCli s
  | .clr m => Sys2Proof.Machine.execClr m s
  | .clra => Sys2Proof.Machine.execClra s
  | .clrb => Sys2Proof.Machine.execClrb s
  | .clv => Sys2Proof.Machine.execClv s
  | .com m => Sys2Proof.Machine.execCom m s
  | .coma => Sys2Proof.Machine.execComa s
  | .comb => Sys2Proof.Machine.execComb s
  | .neg m => Sys2Proof.Machine.execNeg m s
  | .nega => Sys2Proof.Machine.execNega s
  | .negb => Sys2Proof.Machine.execNegb s
  -- Branches, bit-condition branches, loop primitives (44_branch.md)
  | .bra rr => Sys2Proof.Machine.execBra rr s
  | .brn rr => Sys2Proof.Machine.execBrn rr s
  | .bcc rr => Sys2Proof.Machine.execBcc rr s
  | .bcs rr => Sys2Proof.Machine.execBcs rr s
  | .beq rr => Sys2Proof.Machine.execBeq rr s
  | .bmi rr => Sys2Proof.Machine.execBmi rr s
  | .bne rr => Sys2Proof.Machine.execBne rr s
  | .bpl rr => Sys2Proof.Machine.execBpl rr s
  | .bvc rr => Sys2Proof.Machine.execBvc rr s
  | .bvs rr => Sys2Proof.Machine.execBvs rr s
  | .bhi rr => Sys2Proof.Machine.execBhi rr s
  | .bhs rr => Sys2Proof.Machine.execBhs rr s
  | .blo rr => Sys2Proof.Machine.execBlo rr s
  | .bls rr => Sys2Proof.Machine.execBls rr s
  | .bge rr => Sys2Proof.Machine.execBge rr s
  | .bgt rr => Sys2Proof.Machine.execBgt rr s
  | .ble rr => Sys2Proof.Machine.execBle rr s
  | .blt rr => Sys2Proof.Machine.execBlt rr s
  | .lbra qr => Sys2Proof.Machine.execLbra qr s
  | .lbrn qr => Sys2Proof.Machine.execLbrn qr s
  | .lbcc qr => Sys2Proof.Machine.execLbcc qr s
  | .lbcs qr => Sys2Proof.Machine.execLbcs qr s
  | .lbeq qr => Sys2Proof.Machine.execLbeq qr s
  | .lbmi qr => Sys2Proof.Machine.execLbmi qr s
  | .lbne qr => Sys2Proof.Machine.execLbne qr s
  | .lbpl qr => Sys2Proof.Machine.execLbpl qr s
  | .lbvc qr => Sys2Proof.Machine.execLbvc qr s
  | .lbvs qr => Sys2Proof.Machine.execLbvs qr s
  | .lbhi qr => Sys2Proof.Machine.execLbhi qr s
  | .lbhs qr => Sys2Proof.Machine.execLbhs qr s
  | .lblo qr => Sys2Proof.Machine.execLblo qr s
  | .lbls qr => Sys2Proof.Machine.execLbls qr s
  | .lbge qr => Sys2Proof.Machine.execLbge qr s
  | .lbgt qr => Sys2Proof.Machine.execLbgt qr s
  | .lble qr => Sys2Proof.Machine.execLble qr s
  | .lblt qr => Sys2Proof.Machine.execLblt qr s
  | .brclr m mm rr => Sys2Proof.Machine.execBrclr m mm rr s
  | .brset m mm rr => Sys2Proof.Machine.execBrset m mm rr s
  | .dbeq c rel => Sys2Proof.Machine.execDbeq c rel s
  | .dbne c rel => Sys2Proof.Machine.execDbne c rel s
  | .ibeq c rel => Sys2Proof.Machine.execIbeq c rel s
  | .ibne c rel => Sys2Proof.Machine.execIbne c rel s
  | .tbeq c rel => Sys2Proof.Machine.execTbeq c rel s
  | .tbne c rel => Sys2Proof.Machine.execTbne c rel s
  -- Logic and bit instructions (45_logic_bit.md)
  | .anda o => Sys2Proof.Machine.execAnda o s
  | .andb o => Sys2Proof.Machine.execAndb o s
  | .andcc ii => Sys2Proof.Machine.execAndcc ii s
  | .eora o => Sys2Proof.Machine.execEora o s
  | .eorb o => Sys2Proof.Machine.execEorb o s
  | .oraa o => Sys2Proof.Machine.execOraa o s
  | .orab o => Sys2Proof.Machine.execOrab o s
  | .orcc ii => Sys2Proof.Machine.execOrcc ii s
  | .bclr m mm => Sys2Proof.Machine.execBclr m mm s
  | .bita o => Sys2Proof.Machine.execBita o s
  | .bitb o => Sys2Proof.Machine.execBitb o s
  | .bset m mm => Sys2Proof.Machine.execBset m mm s
  -- Shifts and rotates (46_shift_rotate.md)
  | .lsl m => Sys2Proof.Machine.execLsl m s
  | .lsla => Sys2Proof.Machine.execLsla s
  | .lslb => Sys2Proof.Machine.execLslb s
  | .lsld => Sys2Proof.Machine.execLsld s
  | .lsr m => Sys2Proof.Machine.execLsr m s
  | .lsra => Sys2Proof.Machine.execLsra s
  | .lsrb => Sys2Proof.Machine.execLsrb s
  | .lsrd => Sys2Proof.Machine.execLsrd s
  | .asl m => Sys2Proof.Machine.execAsl m s
  | .asla => Sys2Proof.Machine.execAsla s
  | .aslb => Sys2Proof.Machine.execAslb s
  | .asld => Sys2Proof.Machine.execAsld s
  | .asr m => Sys2Proof.Machine.execAsr m s
  | .asra => Sys2Proof.Machine.execAsra s
  | .asrb => Sys2Proof.Machine.execAsrb s
  | .rol m => Sys2Proof.Machine.execRol m s
  | .rola => Sys2Proof.Machine.execRola s
  | .rolb => Sys2Proof.Machine.execRolb s
  | .ror m => Sys2Proof.Machine.execRor m s
  | .rora => Sys2Proof.Machine.execRora s
  | .rorb => Sys2Proof.Machine.execRorb s

end Sys2Proof.Machine
end

