-- ==== Sys2Proof/Machine/Step.lean ====
section
/-! DEFINITION. The step of the machine (R435), and the placing of one instruction where the step
fetches its next one. -/

namespace Sys2Proof.Machine

/-- One step (R435): at `END_PC` the run ends (R433); else the instruction at the program counter is
fetched, decoded and executed as one act (R57). Each meaning advances the program counter itself. -/
def step (s : State) : Res State :=
  if s.launch.endPc = some s.pc then .fault .endOfRun
  else andThen (fetchInstr s) fun i => exec i s

/-- Gives the bytes from an address on their values; addresses wrap (R52). -/
def placeBytes : List Byte → Word → List Host.Cell → List Host.Cell
  | [], _, m => m
  | v :: rest, a, m => placeBytes rest (a + 1) (memSet m a.toNat v)

/-- Makes an address one that the fetch may read: program text (R65), and readable where `MemMap` does
not admit reads of it. -/
def Launch.makeFetchable (a : Word) (l : Launch) : Launch :=
  let l1 := if l.isText a then l else { l with text := ⟨a.toNat, 1⟩ :: l.text }
  match l1.kindOf a with
  | .ram | .rom => l1
  | .device | .unmapped => { l1 with map := ⟨a.toNat, 1, .rom⟩ :: l1.map }

/-- Makes `n` addresses fetchable from `a` on. -/
def Launch.makeFetchableFrom : Nat → Word → Launch → Launch
  | 0, _, l => l
  | n + 1, a, l => makeFetchableFrom n (a + 1) (l.makeFetchable a)

/-- The state with one instruction stored where `step` fetches: the six bytes of a table word at the
program counter, made readable program text, and no end of the run there. It stands for the load of a program
from outside the machine (R430; log 4); nothing else changes. -/
def State.withFetchWord (s : State) (nbits w : Nat) : State :=
  let l := s.launch.makeFetchableFrom 6 s.pc
  { s with
    mem := placeBytes (tableBytes nbits w) s.pc s.mem
    launch := { l with endPc := if l.endPc = some s.pc then none else l.endPc } }

end Sys2Proof.Machine
end

