-- ==== Sys2Proof/Machine/Environment.lean ====
section
/-! DEFINITION. The hardware's instruction boundary, where pending exceptions are served (R404, R406), as
far as the spec describes it. The machine itself runs under the premise `NoAsyncEvents` (R403), where
none is pending: `step` is the boundary without requests, and no run of `core` uses this file
(log 15, log 16). -/

namespace Sys2Proof.Machine

/-- What happens at an instruction boundary with the given requests pending (R404, R406): at `END_PC` the
run ends (R433); else the enabled request of the highest priority is served, with the address of the
next instruction as its return address; else the next instruction is executed. -/
def stepUnder (promoted : Option (Fin 57)) (pending : List ExceptionSource) (s : State) : Res State :=
  if s.launch.endPc = some s.pc then .fault .endOfRun
  else
    match firstException promoted pending s with
    | some e => serveException e s.pc s
    | none => step s

/-- A run through as many instruction boundaries as the list is long, with what is pending at each. -/
def runUnder (promoted : Option (Fin 57)) : List (List ExceptionSource) → State → Res State
  | [], s => .next s
  | pending :: rest, s => andThen (stepUnder promoted pending s) (runUnder promoted rest)

end Sys2Proof.Machine
end

