-- ==== Sys2Proof/Safety.lean ====
section
/-! DEFINITION. The words in which claims about the machine are stated: which memory a state lets an
access reach, what an instruction leaves unchanged, what every step keeps, and where the bytes of a
program stand. -/

namespace Sys2Proof.Machine

/-! ### Memory as a claim sees it -/

/-- The byte at an address can be read and is `v` (R58: class `ram` or `rom`, and a value). -/
def HasByte (s : State) (a : Word) (v : Byte) : Prop :=
  (s.launch.kindOf a = .ram ∨ s.launch.kindOf a = .rom) ∧ memGet s.mem a.toNat = some v

/-- A store to the address is admitted (R58: class `ram`; R65: no byte of the program text). -/
def CanStore (s : State) (a : Word) : Prop :=
  s.launch.kindOf a = .ram ∧ s.launch.isText a = false

/-- The word at an address can be read and is `w`: the more significant byte at the address, the other
after it, modulo 2^16 (R51, R53). -/
def HasWord (s : State) (a w : Word) : Prop :=
  HasByte s a (hiByte w) ∧ HasByte s (a + 1) (loByte w)

/-- A store of a word at an address is admitted (R54). -/
def CanStoreWord (s : State) (a : Word) : Prop := CanStore s a ∧ CanStore s (a + 1)

/-- The bytes stand at an address and after it, modulo 2^16, as readable program text (R58, R65). -/
def Placed : List Byte → Word → State → Prop
  | [], _, _ => True
  | v :: rest, a, s => (HasByte s a v ∧ s.launch.isText a = true) ∧ Placed rest (a + 1) s

/-- No byte of memory reads otherwise in `t` than in `s`, outside the listed addresses. -/
def SameMemOutside (stored : List Word) (s t : State) : Prop :=
  ∀ a, a ∉ stored → readByte a t = readByte a s

/-! ### Frames -/

/-- The parts of the state that an instruction may write, the bits of CCR one by one. -/
inductive Part where
  | a | b | x | y | sp | pc
  | flagS | flagX | flagH | flagI | flagN | flagZ | flagV | flagC
  | draws
  deriving DecidableEq, Repr

/-- Two states agree in a part. -/
def Part.same (p : Part) (s t : State) : Prop :=
  match p with
  | .a => t.a = s.a
  | .b => t.b = s.b
  | .x => t.x = s.x
  | .y => t.y = s.y
  | .sp => t.sp = s.sp
  | .pc => t.pc = s.pc
  | .flagS => t.flagS = s.flagS
  | .flagX => t.flagX = s.flagX
  | .flagH => t.flagH = s.flagH
  | .flagI => t.flagI = s.flagI
  | .flagN => t.flagN = s.flagN
  | .flagZ => t.flagZ = s.flagZ
  | .flagV => t.flagV = s.flagV
  | .flagC => t.flagC = s.flagC
  | .draws => t.draws = s.draws

/-- From `s` to `t`, no part changes but the listed ones, the program counter and the bytes at the
listed addresses; the launch parameters do not change. -/
structure Frame (written : List Part) (stored : List Word) (s t : State) : Prop where
  parts : ∀ p, p ∉ written → p ≠ .pc → p.same s t
  mem : SameMemOutside stored s t
  launch : t.launch = s.launch

/-- The parts of the state that an 8-bit register of a postbyte stands for, CCR apart. -/
def Reg8.parts : Reg8 → List Part
  | .a => [.a]
  | .b => [.b]
  | .ccr => []

/-- The parts of the state that a 16-bit register stands for (R22). -/
def Reg16.parts : Reg16 → List Part
  | .d => [.a, .b]
  | .x => [.x]
  | .y => [.y]
  | .sp => [.sp]

/-- The parts of the state that a loop counter stands for. -/
def Counter.parts : Counter → List Part
  | .a => [.a]
  | .b => [.b]
  | .d => [.a, .b]
  | .x => [.x]
  | .y => [.y]
  | .sp => [.sp]

/-- A loop counter counts modulo 2^8 or 2^16 (R342). -/
def Counter.modulus : Counter → Nat
  | .a => 256
  | .b => 256
  | .d => 65536
  | .x => 65536
  | .y => 65536
  | .sp => 65536

/-- The offset of a branch, a bit-condition branch or a loop primitive (R92). -/
def Instr.branchOffset : Instr → Option Word
  | .bra rr | .brn rr | .bcc rr | .bcs rr | .beq rr | .bmi rr | .bne rr | .bpl rr | .bvc rr
  | .bvs rr | .bhi rr | .bhs rr | .blo rr | .bls rr | .bge rr | .bgt rr | .ble rr | .blt rr
  | .brclr _ _ rr | .brset _ _ rr => some (rr.signExtend 16)
  | .lbra qr | .lbrn qr | .lbcc qr | .lbcs qr | .lbeq qr | .lbmi qr | .lbne qr | .lbpl qr
  | .lbvc qr | .lbvs qr | .lbhi qr | .lbhs qr | .lblo qr | .lbls qr | .lbge qr | .lbgt qr
  | .lble qr | .lblt qr => some qr
  | .dbeq _ rel | .dbne _ rel | .ibeq _ rel | .ibne _ rel | .tbeq _ rel | .tbne _ rel =>
    some (rel.signExtend 16)
  | _ => none

/-! ### The automatic change of a base register (R83) -/

/-- The state after the automatic change of an indexed operand's base register, if it makes one. -/
def Idx.after (x : Idx) (s : State) : State :=
  match x with
  | .auto r _ nnnn => s.setAuto r (s.autoValue r + autoDelta nnnn)
  | .off5 _ _ | .off9 _ _ | .off16 _ _ | .ind16 _ _ | .acc _ _ | .indD _ => s

/-- The same for a memory operand. -/
def Mem.after (m : Mem) (s : State) : State :=
  match m with
  | .dir _ => s
  | .ext _ => s
  | .idx x => Idx.after x s

/-- The same for a source operand. -/
def Opr.after {w : Nat} (o : Opr w) (s : State) : State :=
  match o with
  | .imm _ => s
  | .mem m => Mem.after m s

/-- The state after the automatic change of a move's source (R165). -/
def Mov.afterSource {w : Nat} (m : Mov w) (s : State) : State :=
  match m.source with
  | .inl _ => s
  | .inr x => Mem.after x.toMem s

/-! ### Results -/

/-- The instruction completes from `s`, in a state with the property. -/
def Runs (i : Instr) (s : State) (p : State → Prop) : Prop := ∃ t, exec i s = .next t ∧ p t

/-- The program counter has moved past the `len` bytes of the instruction (R27). -/
def Past (len : Nat) (s t : State) : Prop := t.pc = s.pc + BitVec.ofNat 16 len

/-- `NZn(r)` (R11): N is the top bit of the result, Z tells whether the result is zero. -/
def NZ {w : Nat} (r : BitVec w) (t : State) : Prop :=
  t.flagN = r.msb ∧ (t.flagZ = true ↔ r = 0)

/-- Whether a number is a signed `w`-bit number. -/
def Fits (w : Nat) (z : Int) : Prop := -2 ^ (w - 1) ≤ z ∧ z < 2 ^ (w - 1)

/-- N, Z, V and C after the addition of `a`, `b` and a carry: V is signed overflow (R30), C the carry
out (R29). -/
def AddFlags {w : Nat} (a b : BitVec w) (c : Bool) (t : State) : Prop :=
  NZ (a + b + BitVec.ofNat w c.toNat) t ∧
  (t.flagV = true ↔ ¬ Fits w (a.toInt + b.toInt + c.toNat)) ∧
  (t.flagC = true ↔ 2 ^ w ≤ a.toNat + b.toNat + c.toNat)

/-- H after an 8-bit addition: the carry out of bit 3 (R34). -/
def HalfCarry (a b : Byte) (c : Bool) (t : State) : Prop :=
  t.flagH = true ↔ 16 ≤ a.toNat % 16 + b.toNat % 16 + c.toNat

/-- N, Z, V and C after the subtraction of `b` and a borrow from `a`: V is signed overflow (R30), C the
borrow (R29). -/
def SubFlags {w : Nat} (a b : BitVec w) (c : Bool) (t : State) : Prop :=
  NZ (a - b - BitVec.ofNat w c.toNat) t ∧
  (t.flagV = true ↔ ¬ Fits w (a.toInt - b.toInt - c.toNat)) ∧
  (t.flagC = true ↔ a.toNat < b.toNat + c.toNat)

/-- CCR holds the bits of `v`, but X is set only where it was set before (R37). -/
def CcrFrom (v : Byte) (s t : State) : Prop :=
  t.flagS = v.getLsbD 7 ∧ t.flagX = (s.flagX && v.getLsbD 6) ∧ t.flagH = v.getLsbD 5 ∧
  t.flagI = v.getLsbD 4 ∧ t.flagN = v.getLsbD 3 ∧ t.flagZ = v.getLsbD 2 ∧
  t.flagV = v.getLsbD 1 ∧ t.flagC = v.getLsbD 0

/-- N, Z, V and C after a shift or rotate with result `r`: C the bit that left, V = N xor C (R370). -/
def ShiftFlags {w : Nat} (r : BitVec w) (out : Bool) (t : State) : Prop :=
  NZ r t ∧ t.flagC = out ∧ t.flagV = (r.msb != out)

/-- The branch `i` of `len` bytes goes by `rel` past its end when `p` holds, to its end when not, and
changes nothing else (R300, R301). -/
def Goes (i : Instr) (len : Nat) (rel : Word) (s : State) (p : Prop) : Prop :=
  Runs i s fun t => Frame [] [] s t ∧
    (p → t.pc = s.pc + BitVec.ofNat 16 len + rel) ∧ (¬ p → Past len s t)

/-- The value of a loop counter (R342). -/
def State.counter (s : State) : Counter → Nat
  | .a => s.a.toNat
  | .b => s.b.toNat
  | .d => s.a.toNat * 256 + s.b.toNat
  | .x => s.x.toNat
  | .y => s.y.toNat
  | .sp => s.sp.toNat

/-- The eight bits of CCR. -/
def ccrParts : List Part :=
  [.flagS, .flagX, .flagH, .flagI, .flagN, .flagZ, .flagV, .flagC]

/-! ### What every step keeps -/

/-- The invariant of the machine: memory is in its canonical form (R50). -/
def Inv (s : State) : Prop := memWf s.mem = true

/-- What holds from a state to each later one: the launch parameters stand (R6, R43), CCR.X does not
rise (R35), no byte of the program text changes (R65), no byte outside class `ram` changes (R58), no
byte loses its value, and free values are drawn in order (R9). -/
structure Kept (s t : State) : Prop where
  launch : t.launch = s.launch
  flagX : t.flagX = true → s.flagX = true
  text : ∀ a : Word, s.launch.isText a = true → memGet t.mem a.toNat = memGet s.mem a.toNat
  fixed : ∀ a : Word, s.launch.kindOf a ≠ .ram → memGet t.mem a.toNat = memGet s.mem a.toNat
  valued : ∀ a : Word, (memGet s.mem a.toNat).isSome → (memGet t.mem a.toNat).isSome
  draws : s.draws ≤ t.draws

/-- The premise of every claim about a run (R403): no interrupt, reset or other asynchronous event is
pending at any of its instruction boundaries. -/
def NoAsyncEvents (events : List (List ExceptionSource)) : Prop := ∀ pending ∈ events, pending = []

/-- A result is a state, neither a fault nor a refusal. -/
def Completes (r : Res State) : Prop := ∃ t, r = .next t

end Sys2Proof.Machine
end

