-- ==== Sys2Proof/Certificates/Slice0/Obligations.lean ====
section
/-! DEFINITION. The statements about the machine, from the numbered rules of the spec. -/

open Sys2Proof Sys2Proof.Machine

/-! ### Encoding -/

/-- The bytes of every well-formed instruction, whatever follows them, decode to that instruction under
the name the decoder reports (R74, R88, R90 to R96). -/
def Obligations.DecodeReadsBackEveryEncoding : Prop :=
  ∀ (i : Instr) (rest : List Byte), i.WellFormed →
    decode (encode i ++ rest) = .ok (i.canonical, rest)

/-- What the decoder accepts is the encoding of a well-formed instruction, bit for bit: no reserved
encoding falls through to a neighbour (R97). -/
def Obligations.DecodeAcceptsEncodingsOnly : Prop :=
  ∀ (bs rest : List Byte) (i : Instr), decode bs = .ok (i, rest) →
    i.WellFormed ∧ i.canonical = i ∧ bs = encode i ++ rest

/-- Words written out from the encodings of the spec decode to their instructions (R71, R82, R91). -/
def Obligations.DecodeOfSpecExampleWords : Prop :=
  decode [0xA6, 0x47] = .ok (.ldaa (.mem (.idx (.off5 .y 7))), []) ∧
  decode [0x18, 0x0C, 0x08, 0x00, 0x08, 0x01] = .ok (.movb (.exEx 0x0800 0x0801), []) ∧
  decode [0x04, 0x31, 0xFB] = .ok (.dbne .b (-5), []) ∧
  decode [0xB7, 0x01] = .ok (.tfr (.r8 .a) (.r8 .b), []) ∧
  decode [0x6C, 0xAE] = .ok (.std (.idx (.auto .sp false 0xE)), []) ∧
  decode [0x1E, 0x09, 0x00, 0x81, 0x05] = .ok (.brset (.ext 0x0900) 0x81 0x05, []) ∧
  decode [0x18, 0x20, 0xFF, 0xFC] = .ok (.lbra 0xFFFC, [])

/-- Which postbytes are refused (R90, R91, R97): a transfer postbyte with bit 3 set or a register code
011, an exchange between registers of unequal widths, a loop postbyte with bit 3 set, an operation
code 110 or 111, or a counter code 010 or 011. -/
def Obligations.DecodeRefusesReservedPostbytes : Prop :=
  (∀ (eb : Byte) (rest : List Byte),
    (eb.getLsbD 3 = true ∨ eb.extractLsb' 4 3 = 3 ∨ eb.extractLsb' 0 3 = 3) →
    decode (0xB7 :: eb :: rest) = .error (.transferPostbyte eb)) ∧
  (∀ (eb : Byte) (rest : List Byte),
    eb.getLsbD 7 = true → eb.getLsbD 3 = false → eb.extractLsb' 4 3 ≠ 3 → eb.extractLsb' 0 3 ≠ 3 →
    eb.getLsbD 6 ≠ eb.getLsbD 2 →
    decode (0xB7 :: eb :: rest) = .error (.exchangeWidths eb)) ∧
  (∀ (lb : Byte) (rest : List Byte),
    (lb.getLsbD 3 = true ∨ lb.extractLsb' 5 3 = 6 ∨ lb.extractLsb' 5 3 = 7 ∨
      lb.extractLsb' 0 3 = 2 ∨ lb.extractLsb' 0 3 = 3) →
    decode (0x04 :: lb :: rest) = .error (.loopPostbyte lb))

/-- The two names of one encoding mean one thing: the name that the decoder reports does what the
instruction does, in every state (R96). -/
def Obligations.NamesOfOneEncodingMeanTheSame : Prop :=
  ∀ (i : Instr) (s : State), exec i.canonical s = exec i s

/-! ### The step -/

/-- A step runs the instruction that the bytes at the program counter decode to (R435). The meanings
move the program counter themselves, so the step adds nothing around `exec`. -/
def Obligations.StepRunsTheDecodedInstruction : Prop :=
  ∀ (bs : List Byte) (i : Instr) (s : State),
    decode bs = .ok (i, []) → i.WellFormed → Placed bs s.pc s → s.launch.endPc ≠ some s.pc →
    step s = exec i s

/-- A step at the encoding of a well-formed instruction runs that instruction, whatever bytes follow
it in memory and whether or not they can be read (R73, R96); and a step that answers a state has run
an instruction whose every byte is program text (R65; the fetch reads no other, log 7). -/
def Obligations.StepRunsEveryEncodedInstruction : Prop :=
  (∀ (i : Instr) (s : State), i.WellFormed → Placed (encode i) s.pc s →
    s.launch.endPc ≠ some s.pc → step s = exec i s) ∧
  (∀ s t : State, step s = .next t →
    ∃ i : Instr, i.WellFormed ∧ Placed (encode i) s.pc s ∧ exec i s = .next t)

/-- Where a step does not run an instruction: at `END_PC` the run ends (R433; `endOfRun` is the model's
name for it, log 9), and bytes that decode to no instruction are refused with the decoder's reason
(R97). -/
def Obligations.StepStopsAtEndAndAtRefusedBytes : Prop :=
  (∀ s : State, s.launch.endPc = some s.pc → step s = .fault .endOfRun) ∧
  (∀ (bs : List Byte) (e : DecodeError) (s : State),
    decode bs = .error e → e ≠ .truncated → bs.length ≤ 6 → Placed bs s.pc s →
    s.launch.endPc ≠ some s.pc → step s = .refused (.encoding e))

/-- The program counter after an instruction (R27): past its bytes, or for a branch there or by the
offset further, modulo 2^16. `length` and `offset` read the length and the branch offset from the
instruction's bytes. -/
def Obligations.ProgramCounterMovesByLengthOrOffset : Prop :=
  ∀ (i : Instr) (s t : State), i.WellFormed → exec i s = .next t →
    Past (encode i).length s t ∨
      ∃ rel, Instr.branchOffset i = some rel ∧ t.pc = s.pc + BitVec.ofNat 16 (encode i).length + rel

/-! ### What every step keeps -/

/-- Memory keeps its canonical form in every step (R50). -/
def Obligations.StepKeepsMemoryCanonical : Prop :=
  ∀ s t : State, Inv s → step s = .next t → Inv t

/-- Memory is in its canonical form at reset. -/
def Obligations.ResetMemoryIsCanonical : Prop := Inv State.reset

/-- What every step keeps of an earlier state `s₀` (R6, R35, R58, R65): the launch parameters, the bytes
of the program text, the bytes outside class `ram`; and CCR.X does not rise, no byte loses its
value. -/
def Obligations.StepKeepsTextAndMaskX : Prop :=
  ∀ s₀ s t : State, Kept s₀ s → step s = .next t → Kept s₀ t

/-- The same for a run of any length, from any state with canonical memory, under the premise
`NoAsyncEvents` (R403; log 16): where no interrupt or reset is pending at any instruction boundary,
the hardware's run is the machine's run, and it keeps what a step keeps. Without the premise it is
not so: an XIRQ or a reset sets CCR.X (R404, R406). -/
def Obligations.RunsKeepTextAndMaskX : Prop :=
  ∀ (promoted : Option (Fin 57)) (events : List (List ExceptionSource)), NoAsyncEvents events →
    ∀ s : State, runUnder promoted events s = core.run events.length s ∧
      ∀ t, Inv s → core.run events.length s = .next t → Inv t ∧ Kept s t

/-- The launch state where the spec gives values (R42): S, X and I are set. -/
def Obligations.ResetSetsStopAndInterruptMasks : Prop :=
  State.reset.flagS = true ∧ State.reset.flagX = true ∧ State.reset.flagI = true ∧
  ∀ a : Word, memGet State.reset.mem a.toNat = none

/-! ### Memory -/

/-- What a read gives after a write (R51, R52, R54): a byte store changes its byte; a word store puts
the more significant byte at the address and the other at the next one, modulo 2^16; no other byte
changes; the word reads back. -/
def Obligations.ReadAfterWriteIsBigEndian : Prop :=
  (∀ (a b : Word) (v : Byte) (s t : State), writeByte a v s = .next t →
    readByte b t = if b = a then .next v else readByte b s) ∧
  (∀ (a w : Word) (s t : State), writeWord a w s = .next t →
    HasByte t a (hiByte w) ∧ HasByte t (a + 1) (loByte w) ∧ readWord a t = .next w ∧
    SameMemOutside [a, a + 1] s t)

/-- Admission by region (R58), with the program text refused first (R65): what a read and a write of
each class of address answer. -/
def Obligations.RegionsAdmitReadsAndWrites : Prop :=
  ∀ (s : State) (a : Word) (v : Byte),
    (s.launch.isText a = true → writeByte a v s = .refused (.textStore a)) ∧
    match s.launch.kindOf a with
    | .ram =>
      (∀ u, memGet s.mem a.toNat = some u → readByte a s = .next u) ∧
      (memGet s.mem a.toNat = none → readByte a s = .fault (.noValue a)) ∧
      (s.launch.isText a = false →
        ∃ t, writeByte a v s = .next t ∧ memGet t.mem a.toNat = some v)
    | .rom =>
      (∀ u, memGet s.mem a.toNat = some u → readByte a s = .next u) ∧
      (s.launch.isText a = false → writeByte a v s = .refused (.romWrite a))
    | .device =>
      readByte a s = .refused (.deviceAccess a) ∧
      (s.launch.isText a = false → writeByte a v s = .refused (.deviceAccess a))
    | .unmapped =>
      readByte a s = .refused (.unmappedAccess a) ∧
      (s.launch.isText a = false → writeByte a v s = .refused (.unmappedAccess a))

/-! ### Operands -/

/-- The address of a constant or accumulator offset from X, Y or SP (R82, R84, R86): the base plus the
sign-extended 5-bit or 9-bit offset, the 16-bit offset, the unsigned A or B, or D; no register
changes. -/
def Obligations.OffsetAddressesAddToTheBase : Prop :=
  ∀ (slot : Slot) (next base : Word) (r : IdxBase) (s : State),
    ((r = .x ∧ base = s.x) ∨ (r = .y ∧ base = s.y) ∨ (r = .sp ∧ base = s.sp)) →
    (∀ n : BitVec 5, idxAddress slot next (.off5 r n) s =
      .next (BitVec.ofInt 16 (base.toNat + n.toInt), s)) ∧
    (∀ n : BitVec 9, idxAddress slot next (.off9 r n) s =
      .next (BitVec.ofInt 16 (base.toNat + n.toInt), s)) ∧
    (∀ n : Word, idxAddress slot next (.off16 r n) s = .next (base + n, s)) ∧
    idxAddress slot next (.acc r .a) s = .next (BitVec.ofNat 16 (base.toNat + s.a.toNat), s) ∧
    idxAddress slot next (.acc r .b) s = .next (BitVec.ofNat 16 (base.toNat + s.b.toNat), s) ∧
    idxAddress slot next (.acc r .d) s =
      .next (BitVec.ofNat 16 (base.toNat + (s.a.toNat * 256 + s.b.toNat)), s)

/-- Automatic increment and decrement (R83): the base changes by `nnnn + 1` or `nnnn - 16`; the address
is the new base for a pre form and the old base for a post form; nothing but the base changes. -/
def Obligations.AutoFormsChangeTheBase : Prop :=
  ∀ (slot : Slot) (next : Word) (r : AutoBase) (post : Bool) (nnnn : BitVec 4) (s : State),
    let d : Int := if nnnn.toNat < 8 then nnnn.toNat + 1 else nnnn.toNat - 16
    let new := BitVec.ofInt 16 ((s.autoValue r).toNat + d)
    ∃ t, idxAddress slot next (.auto r post nnnn) s =
        .next (if post then s.autoValue r else new, t) ∧
      t.autoValue r = new ∧
      Frame [match r with | .x => Part.x | .y => Part.y | .sp => Part.sp] [] s t ∧ t.pc = s.pc

/-- The indirect forms (R85, R87): the word at base plus D, or at base plus the 16-bit offset, is the
address; no register changes. -/
def Obligations.IndirectFormsReadTheAddress : Prop :=
  ∀ (slot : Slot) (next base ea : Word) (r : IdxBase) (s : State),
    ((r = .x ∧ base = s.x) ∨ (r = .y ∧ base = s.y) ∨ (r = .sp ∧ base = s.sp)) →
    (HasWord s (BitVec.ofNat 16 (base.toNat + (s.a.toNat * 256 + s.b.toNat))) ea →
      idxAddress slot next (.indD r) s = .next (ea, s)) ∧
    (∀ n : Word, HasWord s (base + n) ea →
      idxAddress slot next (.ind16 r n) s = .next (ea, s))

/-- A PC base (R81): refused in every sub-form while `PCBASE` is not supplied; with it (log 8, the
model's choice of its shape) the base is the next instruction's address plus the displacement. -/
def Obligations.PcBaseIsRefusedUntilSupplied : Prop :=
  ∀ (slot : Slot) (next : Word) (s : State),
    (s.launch.pcBase = none → ∀ (n5 : BitVec 5) (n9 : BitVec 9) (n : Word) (o : AccOffset),
      idxAddress slot next (.off5 .pc n5) s = .refused .pcBaseOpen ∧
      idxAddress slot next (.off9 .pc n9) s = .refused .pcBaseOpen ∧
      idxAddress slot next (.off16 .pc n) s = .refused .pcBaseOpen ∧
      idxAddress slot next (.ind16 .pc n) s = .refused .pcBaseOpen ∧
      idxAddress slot next (.acc .pc o) s = .refused .pcBaseOpen ∧
      idxAddress slot next (.indD .pc) s = .refused .pcBaseOpen) ∧
    (∀ p : PcBase, s.launch.pcBase = some p → ∀ n : BitVec 5,
      idxAddress slot next (.off5 .pc n) s = .next (next + p.displacement slot + n.signExtend 16, s))

/-- What an operand form gives (R76, R78, R79): an immediate is its own value; a direct address is in
the page at $0000; an extended address is the one in the instruction; a memory operand's value is the
byte or the word at its address. Only the base register of an auto form changes. -/
def Obligations.OperandFormsGiveTheirValue : Prop :=
  (∀ (next : Word) (s : State),
    (∀ ii : Byte, operand8 next (.imm ii) s = .next (ii, s)) ∧
    (∀ jjkk : Word, operand16 next (.imm jjkk) s = .next (jjkk, s)) ∧
    (∀ (c : IdxClass) (dd : Byte),
      memAddress c next (.dir dd) s = .next (BitVec.ofNat 16 dd.toNat, s)) ∧
    (∀ (c : IdxClass) (hhll : Word), memAddress c next (.ext hhll) s = .next (hhll, s)) ∧
    (∀ (c : IdxClass) (x : Idx), x.inClass c = true →
      memAddress c next (.idx x) s = idxAddress .sole next x s)) ∧
  (∀ (next ea : Word) (m : Mem) (s s1 : State), memAddress .all next m s = .next (ea, s1) →
    s1 = Mem.after m s ∧
    (∀ v, HasByte s ea v → operand8 next (.mem m) s = .next (v, Mem.after m s)) ∧
    (∀ v, HasWord s ea v → operand16 next (.mem m) s = .next (v, Mem.after m s)))

/-- The refusals of one register used twice (R83, R165): the data register of LDr, STr, LEAr and CPr
is the base that the operand changes, or both operands of a move change one base. -/
def Obligations.AutoBaseClashesAreRefused : Prop :=
  ∀ (post : Bool) (n k : BitVec 4) (s : State),
    (∀ i ∈ [Instr.lds (.mem (.idx (.auto .sp post n))), .sts (.idx (.auto .sp post n)),
        .leas (.auto .sp post n), .cps (.mem (.idx (.auto .sp post n))),
        .ldx (.mem (.idx (.auto .x post n))), .stx (.idx (.auto .x post n)),
        .leax (.auto .x post n), .cpx (.mem (.idx (.auto .x post n))),
        .ldy (.mem (.idx (.auto .y post n))), .sty (.idx (.auto .y post n)),
        .leay (.auto .y post n), .cpy (.mem (.idx (.auto .y post n)))],
      exec i s = .refused .autoBaseIsData) ∧
    (∀ (r : AutoBase) (q : Bool),
      exec (.movb (.idId (.auto r post n) (.auto r q k))) s = .refused .moveSharesAutoBase ∧
      exec (.movw (.idId (.auto r post n) (.auto r q k))) s = .refused .moveSharesAutoBase)

/-! ### Loads, load effective address, stores -/

/-- The loads (R120 to R126): the register takes the operand's value, N and Z tell it, V is cleared,
nothing else changes but the operand's base register. -/
def Obligations.LoadsTakeTheOperandAndSetNZ : Prop :=
  (∀ (o : Opr 8) (m : Byte) (s s1 : State),
    operand8 (s.nextPc (1 + o.length)) o s = .next (m, s1) →
    Runs (.ldaa o) s (fun t => t.a = m ∧ NZ m t ∧ t.flagV = false ∧ Past (1 + o.length) s t ∧
      Frame [.a, .flagN, .flagZ, .flagV] [] (Opr.after o s) t) ∧
    Runs (.ldab o) s (fun t => t.b = m ∧ NZ m t ∧ t.flagV = false ∧ Past (1 + o.length) s t ∧
      Frame [.b, .flagN, .flagZ, .flagV] [] (Opr.after o s) t)) ∧
  (∀ (o : Opr 16) (m : Word) (s s1 : State),
    operand16 (s.nextPc (1 + o.length)) o s = .next (m, s1) →
    Runs (.ldd o) s (fun t => t.a = hiByte m ∧ t.b = loByte m ∧ NZ m t ∧ t.flagV = false ∧
      Past (1 + o.length) s t ∧
      Frame [.a, .b, .flagN, .flagZ, .flagV] [] (Opr.after o s) t) ∧
    (o.autoBase ≠ some .sp →
      Runs (.lds o) s (fun t => t.sp = m ∧ NZ m t ∧ t.flagV = false ∧ Past (1 + o.length) s t ∧
        Frame [.sp, .flagN, .flagZ, .flagV] [] (Opr.after o s) t)) ∧
    (o.autoBase ≠ some .x →
      Runs (.ldx o) s (fun t => t.x = m ∧ NZ m t ∧ t.flagV = false ∧ Past (1 + o.length) s t ∧
        Frame [.x, .flagN, .flagZ, .flagV] [] (Opr.after o s) t)) ∧
    (o.autoBase ≠ some .y →
      Runs (.ldy o) s (fun t => t.y = m ∧ NZ m t ∧ t.flagV = false ∧ Past (1 + o.length) s t ∧
        Frame [.y, .flagN, .flagZ, .flagV] [] (Opr.after o s) t)))

/-- Load effective address (R127 to R130): the register takes the address itself, no flag and no byte of
memory changes; an auto form also changes its base, and is refused where the base is the register
itself. -/
def Obligations.LoadEffectiveAddressTakesTheAddress : Prop :=
  ∀ (x : Idx) (ea : Word) (s s1 : State), x.inClass .noind = true →
    idxAddress .sole (s.nextPc (1 + x.length)) x s = .next (ea, s1) →
    ((Mem.idx x).autoBase ≠ some .sp →
      Runs (.leas x) s (fun t => t.sp = ea ∧ Past (1 + x.length) s t ∧
        Frame [.sp] [] (Idx.after x s) t)) ∧
    ((Mem.idx x).autoBase ≠ some .x →
      Runs (.leax x) s (fun t => t.x = ea ∧ Past (1 + x.length) s t ∧
        Frame [.x] [] (Idx.after x s) t)) ∧
    ((Mem.idx x).autoBase ≠ some .y →
      Runs (.leay x) s (fun t => t.y = ea ∧ Past (1 + x.length) s t ∧
        Frame [.y] [] (Idx.after x s) t)) ∧
    ((Mem.idx x).autoBase = some .sp → exec (.leas x) s = .refused .autoBaseIsData) ∧
    ((Mem.idx x).autoBase = some .x → exec (.leax x) s = .refused .autoBaseIsData) ∧
    ((Mem.idx x).autoBase = some .y → exec (.leay x) s = .refused .autoBaseIsData)

/-- The stores (R131 to R137): the register's bytes stand at the address that `memAddress` gives, the
more significant byte first; N and Z tell the stored value, V is cleared; no other byte and no other
register changes but the operand's base register. -/
def Obligations.StoresPutTheRegisterInMemory : Prop :=
  ∀ (m : Mem) (ea : Word) (s s1 : State),
    memAddress .all (s.nextPc (1 + m.length)) m s = .next (ea, s1) →
    (CanStore s ea →
      Runs (.staa m) s (fun t => HasByte t ea s.a ∧ NZ s.a t ∧ t.flagV = false ∧
        Past (1 + m.length) s t ∧ Frame [.flagN, .flagZ, .flagV] [ea] (Mem.after m s) t) ∧
      Runs (.stab m) s (fun t => HasByte t ea s.b ∧ NZ s.b t ∧ t.flagV = false ∧
        Past (1 + m.length) s t ∧ Frame [.flagN, .flagZ, .flagV] [ea] (Mem.after m s) t)) ∧
    (CanStoreWord s ea →
      Runs (.std m) s (fun t => HasByte t ea s.a ∧ HasByte t (ea + 1) s.b ∧
        NZ (mkWord s.a s.b) t ∧ t.flagV = false ∧ Past (1 + m.length) s t ∧
        Frame [.flagN, .flagZ, .flagV] [ea, ea + 1] (Mem.after m s) t) ∧
      (m.autoBase ≠ some .sp →
        Runs (.sts m) s (fun t => HasWord t ea s.sp ∧ NZ s.sp t ∧ t.flagV = false ∧
          Past (1 + m.length) s t ∧
          Frame [.flagN, .flagZ, .flagV] [ea, ea + 1] (Mem.after m s) t)) ∧
      (m.autoBase ≠ some .x →
        Runs (.stx m) s (fun t => HasWord t ea s.x ∧ NZ s.x t ∧ t.flagV = false ∧
          Past (1 + m.length) s t ∧
          Frame [.flagN, .flagZ, .flagV] [ea, ea + 1] (Mem.after m s) t)) ∧
      (m.autoBase ≠ some .y →
        Runs (.sty m) s (fun t => HasWord t ea s.y ∧ NZ s.y t ∧ t.flagV = false ∧
          Past (1 + m.length) s t ∧
          Frame [.flagN, .flagZ, .flagV] [ea, ea + 1] (Mem.after m s) t)))

/-! ### Transfers, exchanges, moves, stack -/

/-- The transfers and exchanges with fixed registers (R151, R153, R155 to R159, R162, R163): TAB and
TBA set N and Z and clear V, the others change no flag. -/
def Obligations.FixedTransfersCopyRegisters : Prop :=
  ∀ s : State,
    Runs .tab s (fun t => t.b = s.a ∧ NZ s.a t ∧ t.flagV = false ∧ Past 2 s t ∧
      Frame [.b, .flagN, .flagZ, .flagV] [] s t) ∧
    Runs .tba s (fun t => t.a = s.b ∧ NZ s.b t ∧ t.flagV = false ∧ Past 2 s t ∧
      Frame [.a, .flagN, .flagZ, .flagV] [] s t) ∧
    Runs .tpa s (fun t => t.a = s.ccr ∧ Past 2 s t ∧ Frame [.a] [] s t) ∧
    Runs .tsx s (fun t => t.x = s.sp ∧ Past 2 s t ∧ Frame [.x] [] s t) ∧
    Runs .tsy s (fun t => t.y = s.sp ∧ Past 2 s t ∧ Frame [.y] [] s t) ∧
    Runs .txs s (fun t => t.sp = s.x ∧ Past 2 s t ∧ Frame [.sp] [] s t) ∧
    Runs .tys s (fun t => t.sp = s.y ∧ Past 2 s t ∧ Frame [.sp] [] s t) ∧
    Runs .xgdx s (fun t => t.x = mkWord s.a s.b ∧ t.a = hiByte s.x ∧ t.b = loByte s.x ∧
      Past 2 s t ∧ Frame [.a, .b, .x] [] s t) ∧
    Runs .xgdy s (fun t => t.y = mkWord s.a s.b ∧ t.a = hiByte s.y ∧ t.b = loByte s.y ∧
      Past 2 s t ∧ Frame [.a, .b, .y] [] s t)

/-- TFR, EXG and SEX between registers other than CCR (R154, R160, R161, R164): equal widths copy or
swap, 8 to 16 bits extends the sign, 16 to 8 bits takes the low byte; no flag changes; an exchange
of unequal widths has no meaning. -/
def Obligations.TransfersConvertBetweenWidths : Prop :=
  (∀ (r R : Reg8) (s : State), R ≠ .ccr →
    Runs (.tfr (.r8 r) (.r8 R)) s (fun t => t.read8 R = s.read8 r ∧ Past 2 s t ∧
      Frame (Reg8.parts R) [] s t) ∧
    (r ≠ .ccr → Runs (.exg (.r8 r) (.r8 R)) s (fun t => t.read8 R = s.read8 r ∧
      t.read8 r = s.read8 R ∧ Past 2 s t ∧ Frame (Reg8.parts r ++ Reg8.parts R) [] s t))) ∧
  (∀ (r : Reg8) (R : Reg16) (s : State),
    Runs (.tfr (.r8 r) (.r16 R)) s (fun t => (t.read16 R).toInt = (s.read8 r).toInt ∧ Past 2 s t ∧
      Frame (Reg16.parts R) [] s t) ∧
    Runs (.sex r R) s (fun t => (t.read16 R).toInt = (s.read8 r).toInt ∧ Past 2 s t ∧
      Frame (Reg16.parts R) [] s t)) ∧
  (∀ (r : Reg16) (R : Reg8) (s : State), R ≠ .ccr →
    Runs (.tfr (.r16 r) (.r8 R)) s (fun t => (t.read8 R).toNat = (s.read16 r).toNat % 256 ∧
      Past 2 s t ∧ Frame (Reg8.parts R) [] s t)) ∧
  (∀ (r R : Reg16) (s : State),
    Runs (.tfr (.r16 r) (.r16 R)) s (fun t => t.read16 R = s.read16 r ∧ Past 2 s t ∧
      Frame (Reg16.parts R) [] s t) ∧
    Runs (.exg (.r16 r) (.r16 R)) s (fun t => t.read16 R = s.read16 r ∧ t.read16 r = s.read16 R ∧
      Past 2 s t ∧ Frame (Reg16.parts r ++ Reg16.parts R) [] s t)) ∧
  (∀ (r : Reg8) (R : Reg16) (s : State),
    exec (.exg (.r8 r) (.r16 R)) s = .refused .exchangeWidths ∧
    exec (.exg (.r16 R) (.r8 r)) s = .refused .exchangeWidths)

/-- The instructions that write CCR as a byte (R37, R152, R154, R160, R177, R353, R358): every bit is
that of the byte, but X is set only where it was set before; CLC, CLI and CLV clear one bit each
(R272, R273, R277). -/
def Obligations.CcrWritersKeepMaskXClear : Prop :=
  ∀ s : State,
    Runs .tap s (fun t => CcrFrom s.a s t ∧ Past 2 s t ∧ Frame ccrParts [] s t) ∧
    (∀ r : Reg8, Runs (.tfr (.r8 r) (.r8 .ccr)) s (fun t => CcrFrom (s.read8 r) s t ∧ Past 2 s t ∧
      Frame ccrParts [] s t)) ∧
    (∀ r : Reg16, Runs (.tfr (.r16 r) (.r8 .ccr)) s (fun t => CcrFrom (loByte (s.read16 r)) s t ∧
      Past 2 s t ∧ Frame ccrParts [] s t)) ∧
    (∀ r : Reg8, Runs (.exg (.r8 r) (.r8 .ccr)) s (fun t => CcrFrom (s.read8 r) s t ∧
      (r ≠ .ccr → t.read8 r = s.ccr) ∧ Past 2 s t ∧ Frame (ccrParts ++ Reg8.parts r) [] s t) ∧
      Runs (.exg (.r8 .ccr) (.r8 r)) s (fun t => CcrFrom (s.read8 r) s t ∧
      (r ≠ .ccr → t.read8 r = s.ccr) ∧ Past 2 s t ∧ Frame (ccrParts ++ Reg8.parts r) [] s t)) ∧
    (∀ ii : Byte,
      Runs (.andcc ii) s (fun t => CcrFrom (s.ccr &&& ii) s t ∧ Past 2 s t ∧
        Frame ccrParts [] s t) ∧
      Runs (.orcc ii) s (fun t => CcrFrom (s.ccr ||| ii) s t ∧ Past 2 s t ∧
        Frame ccrParts [] s t)) ∧
    (∀ v : Byte, HasByte s s.sp v →
      Runs .pulc s (fun t => CcrFrom v s t ∧ t.sp = s.sp + 1 ∧ Past 1 s t ∧
        Frame (.sp :: ccrParts) [] s t)) ∧
    Runs .clc s (fun t => t.flagC = false ∧ Past 2 s t ∧ Frame [.flagC] [] s t) ∧
    Runs .cli s (fun t => t.flagI = false ∧ Past 2 s t ∧ Frame [.flagI] [] s t) ∧
    Runs .clv s (fun t => t.flagV = false ∧ Past 2 s t ∧ Frame [.flagV] [] s t)

/-- No instruction sets CCR.X, and software can clear it (R35). -/
def Obligations.NoInstructionSetsMaskX : Prop :=
  (∀ (i : Instr) (s t : State), exec i s = .next t → t.flagX = true → s.flagX = true) ∧
  (∀ s : State, Runs (.andcc 0xBF) s (fun t => t.flagX = false))

/-- H changes only by ABA, ADDA, ADDB, ADCA and ADCB and by the instructions that write CCR as a byte
(R34, R202, R38). -/
def Obligations.HalfCarryHasFewWriters : Prop :=
  ∀ (i : Instr) (s t : State), exec i s = .next t → t.flagH ≠ s.flagH →
    i = .aba ∨ (∃ o, i = .adda o) ∨ (∃ o, i = .addb o) ∨ (∃ o, i = .adca o) ∨ (∃ o, i = .adcb o) ∨
    i = .tap ∨ i = .pulc ∨ (∃ ii, i = .andcc ii) ∨ (∃ ii, i = .orcc ii) ∨
    (∃ r, i = .tfr r (.r8 .ccr)) ∨ (∃ r, i = .exg r (.r8 .ccr)) ∨ (∃ r, i = .exg (.r8 .ccr) r)

/-- The moves (R165 to R167): the source's value stands at the destination's address, which is computed
after the source is read; no register changes but the base registers of auto operands, and no flag. -/
def Obligations.MovesCopyMemoryWithoutFlags : Prop :=
  (∀ (m : Mov 8) (v : Byte) (b : Word) (s s1 s2 : State),
    ¬ (m.sourceAuto ≠ none ∧ m.sourceAuto = m.destAuto) →
    moveSource readByte (s.nextPc (2 + m.length)) m s = .next (v, s1) →
    moveAddress .moveDest (s.nextPc (2 + m.length)) m.dest s1 = .next (b, s2) →
    CanStore s b →
    Runs (.movb m) s (fun t => HasByte t b v ∧ Past (2 + m.length) s t ∧
      Frame [] [b] (Mem.after m.dest.toMem (Mov.afterSource m s)) t)) ∧
  (∀ (m : Mov 16) (v b : Word) (s s1 s2 : State),
    ¬ (m.sourceAuto ≠ none ∧ m.sourceAuto = m.destAuto) →
    moveSource readWord (s.nextPc (2 + m.length)) m s = .next (v, s1) →
    moveAddress .moveDest (s.nextPc (2 + m.length)) m.dest s1 = .next (b, s2) →
    CanStoreWord s b →
    Runs (.movw m) s (fun t => HasWord t b v ∧ Past (2 + m.length) s t ∧
      Frame [] [b, b + 1] (Mem.after m.dest.toMem (Mov.afterSource m s)) t))

/-- The pushes and the pulls (R168 to R180): a push lowers SP by the size of the register, whose bytes
then stand at the new SP; a pull loads the register from SP and then raises SP by its size. No flag
changes, but for a pull of CCR. -/
def Obligations.StackGrowsDownByTheRegisterSize : Prop :=
  ∀ s : State,
    (CanStore s (s.sp - 1) →
      Runs .psha s (fun t => HasByte t t.sp s.a ∧ t.sp = s.sp - 1 ∧ Past 1 s t ∧
        Frame [.sp] [s.sp - 1] s t) ∧
      Runs .pshb s (fun t => HasByte t t.sp s.b ∧ t.sp = s.sp - 1 ∧ Past 1 s t ∧
        Frame [.sp] [s.sp - 1] s t) ∧
      Runs .pshc s (fun t => HasByte t t.sp s.ccr ∧ t.sp = s.sp - 1 ∧ Past 1 s t ∧
        Frame [.sp] [s.sp - 1] s t)) ∧
    (CanStoreWord s (s.sp - 2) →
      Runs .pshd s (fun t => HasWord t t.sp (mkWord s.a s.b) ∧ t.sp = s.sp - 2 ∧ Past 1 s t ∧
        Frame [.sp] [s.sp - 2, s.sp - 1] s t) ∧
      Runs .pshx s (fun t => HasWord t t.sp s.x ∧ t.sp = s.sp - 2 ∧ Past 1 s t ∧
        Frame [.sp] [s.sp - 2, s.sp - 1] s t) ∧
      Runs .pshy s (fun t => HasWord t t.sp s.y ∧ t.sp = s.sp - 2 ∧ Past 1 s t ∧
        Frame [.sp] [s.sp - 2, s.sp - 1] s t)) ∧
    (∀ v, HasByte s s.sp v →
      Runs .pula s (fun t => t.a = v ∧ t.sp = s.sp + 1 ∧ Past 1 s t ∧ Frame [.a, .sp] [] s t) ∧
      Runs .pulb s (fun t => t.b = v ∧ t.sp = s.sp + 1 ∧ Past 1 s t ∧ Frame [.b, .sp] [] s t) ∧
      Runs .pulc s (fun t => CcrFrom v s t ∧ t.sp = s.sp + 1 ∧ Past 1 s t ∧
        Frame (.sp :: ccrParts) [] s t)) ∧
    (∀ w, HasWord s s.sp w →
      Runs .puld s (fun t => t.a = hiByte w ∧ t.b = loByte w ∧ t.sp = s.sp + 2 ∧ Past 1 s t ∧
        Frame [.a, .b, .sp] [] s t) ∧
      Runs .pulx s (fun t => t.x = w ∧ t.sp = s.sp + 2 ∧ Past 1 s t ∧ Frame [.x, .sp] [] s t) ∧
      Runs .puly s (fun t => t.y = w ∧ t.sp = s.sp + 2 ∧ Past 1 s t ∧ Frame [.y, .sp] [] s t))

/-- The instructions that do nothing but pass (R98): BRN and LBRN, whatever their offset, and TFR and EXG
of a register with itself, CCR included. -/
def Obligations.SomeInstructionsOnlyAdvance : Prop :=
  ∀ (s : State) (rr : Byte) (qr : Word) (r : Reg),
    Runs (.brn rr) s (fun t => Frame [] [] s t ∧ Past 2 s t) ∧
    Runs (.lbrn qr) s (fun t => Frame [] [] s t ∧ Past 4 s t) ∧
    Runs (.tfr r r) s (fun t => Frame [] [] s t ∧ Past 2 s t) ∧
    Runs (.exg r r) s (fun t => Frame [] [] s t ∧ Past 2 s t)

/-! ### Addition, subtraction, increment, decrement, decimal adjust -/

/-- The 8-bit additions (R201, R202, R205 to R208): the sum modulo 2^8 with the old carry for ADCA and
ADCB; V is signed overflow, C the carry out, H the carry out of bit 3. -/
def Obligations.ByteAdditionsSetAllFiveFlags : Prop :=
  (∀ s : State, Runs .aba s (fun t => t.a = s.a + s.b ∧ AddFlags s.a s.b false t ∧
    HalfCarry s.a s.b false t ∧ Past 2 s t ∧
    Frame [.a, .flagH, .flagN, .flagZ, .flagV, .flagC] [] s t)) ∧
  (∀ (o : Opr 8) (m : Byte) (s s1 : State),
    operand8 (s.nextPc (1 + o.length)) o s = .next (m, s1) →
    Runs (.adda o) s (fun t => t.a = s.a + m ∧ AddFlags s.a m false t ∧ HalfCarry s.a m false t ∧
      Past (1 + o.length) s t ∧
      Frame [.a, .flagH, .flagN, .flagZ, .flagV, .flagC] [] (Opr.after o s) t) ∧
    Runs (.addb o) s (fun t => t.b = s.b + m ∧ AddFlags s.b m false t ∧ HalfCarry s.b m false t ∧
      Past (1 + o.length) s t ∧
      Frame [.b, .flagH, .flagN, .flagZ, .flagV, .flagC] [] (Opr.after o s) t) ∧
    Runs (.adca o) s (fun t => t.a = s.a + m + BitVec.ofNat 8 s.flagC.toNat ∧
      AddFlags s.a m s.flagC t ∧ HalfCarry s.a m s.flagC t ∧ Past (1 + o.length) s t ∧
      Frame [.a, .flagH, .flagN, .flagZ, .flagV, .flagC] [] (Opr.after o s) t) ∧
    Runs (.adcb o) s (fun t => t.b = s.b + m + BitVec.ofNat 8 s.flagC.toNat ∧
      AddFlags s.b m s.flagC t ∧ HalfCarry s.b m s.flagC t ∧ Past (1 + o.length) s t ∧
      Frame [.b, .flagH, .flagN, .flagZ, .flagV, .flagC] [] (Opr.after o s) t))

/-- The 8-bit subtractions (R202, R210 to R214): C is the borrow, V signed overflow, H unchanged. -/
def Obligations.ByteSubtractionsLeaveHalfCarry : Prop :=
  (∀ s : State, Runs .sba s (fun t => t.a = s.a - s.b ∧ SubFlags s.a s.b false t ∧ Past 2 s t ∧
    Frame [.a, .flagN, .flagZ, .flagV, .flagC] [] s t)) ∧
  (∀ (o : Opr 8) (m : Byte) (s s1 : State),
    operand8 (s.nextPc (1 + o.length)) o s = .next (m, s1) →
    Runs (.suba o) s (fun t => t.a = s.a - m ∧ SubFlags s.a m false t ∧ Past (1 + o.length) s t ∧
      Frame [.a, .flagN, .flagZ, .flagV, .flagC] [] (Opr.after o s) t) ∧
    Runs (.subb o) s (fun t => t.b = s.b - m ∧ SubFlags s.b m false t ∧ Past (1 + o.length) s t ∧
      Frame [.b, .flagN, .flagZ, .flagV, .flagC] [] (Opr.after o s) t) ∧
    Runs (.sbca o) s (fun t => t.a = s.a - m - BitVec.ofNat 8 s.flagC.toNat ∧
      SubFlags s.a m s.flagC t ∧ Past (1 + o.length) s t ∧
      Frame [.a, .flagN, .flagZ, .flagV, .flagC] [] (Opr.after o s) t) ∧
    Runs (.sbcb o) s (fun t => t.b = s.b - m - BitVec.ofNat 8 s.flagC.toNat ∧
      SubFlags s.b m s.flagC t ∧ Past (1 + o.length) s t ∧
      Frame [.b, .flagN, .flagZ, .flagV, .flagC] [] (Opr.after o s) t))

/-- ADDD and SUBD (R202, R209, R215): D plus or minus the operand, H unchanged. -/
def Obligations.WordAdditionAndSubtractionOnD : Prop :=
  ∀ (o : Opr 16) (m : Word) (s s1 : State),
    operand16 (s.nextPc (1 + o.length)) o s = .next (m, s1) →
    Runs (.addd o) s (fun t => mkWord t.a t.b = mkWord s.a s.b + m ∧
      AddFlags (mkWord s.a s.b) m false t ∧ Past (1 + o.length) s t ∧
      Frame [.a, .b, .flagN, .flagZ, .flagV, .flagC] [] (Opr.after o s) t) ∧
    Runs (.subd o) s (fun t => mkWord t.a t.b = mkWord s.a s.b - m ∧
      SubFlags (mkWord s.a s.b) m false t ∧ Past (1 + o.length) s t ∧
      Frame [.a, .b, .flagN, .flagZ, .flagV, .flagC] [] (Opr.after o s) t)

/-- The 16-bit register steps (R203, R204, R224 to R226, R230 to R232): ABX and ABY add the unsigned B
and write no flag, INS and DES write no flag, INX, INY, DEX and DEY write Z alone. -/
def Obligations.WordStepsWriteAtMostZ : Prop :=
  ∀ s : State,
    Runs .abx s (fun t => t.x = BitVec.ofNat 16 (s.x.toNat + s.b.toNat) ∧ Past 2 s t ∧
      Frame [.x] [] s t) ∧
    Runs .aby s (fun t => t.y = BitVec.ofNat 16 (s.y.toNat + s.b.toNat) ∧ Past 2 s t ∧
      Frame [.y] [] s t) ∧
    Runs .des s (fun t => t.sp = s.sp - 1 ∧ Past 2 s t ∧ Frame [.sp] [] s t) ∧
    Runs .ins s (fun t => t.sp = s.sp + 1 ∧ Past 2 s t ∧ Frame [.sp] [] s t) ∧
    Runs .dex s (fun t => t.x = s.x - 1 ∧ (t.flagZ = true ↔ t.x = 0) ∧ Past 1 s t ∧
      Frame [.x, .flagZ] [] s t) ∧
    Runs .dey s (fun t => t.y = s.y - 1 ∧ (t.flagZ = true ↔ t.y = 0) ∧ Past 1 s t ∧
      Frame [.y, .flagZ] [] s t) ∧
    Runs .inx s (fun t => t.x = s.x + 1 ∧ (t.flagZ = true ↔ t.x = 0) ∧ Past 1 s t ∧
      Frame [.x, .flagZ] [] s t) ∧
    Runs .iny s (fun t => t.y = s.y + 1 ∧ (t.flagZ = true ↔ t.y = 0) ∧ Past 1 s t ∧
      Frame [.y, .flagZ] [] s t)

/-- INC and DEC in memory, A and B (R220 to R223, R227 to R229): V is signed overflow, C unchanged. -/
def Obligations.IncrementAndDecrementLeaveCarry : Prop :=
  (∀ s : State,
    Runs .inca s (fun t => t.a = s.a + 1 ∧ NZ (s.a + 1) t ∧
      (t.flagV = true ↔ ¬ Fits 8 (s.a.toInt + 1)) ∧ Past 1 s t ∧
      Frame [.a, .flagN, .flagZ, .flagV] [] s t) ∧
    Runs .incb s (fun t => t.b = s.b + 1 ∧ NZ (s.b + 1) t ∧
      (t.flagV = true ↔ ¬ Fits 8 (s.b.toInt + 1)) ∧ Past 1 s t ∧
      Frame [.b, .flagN, .flagZ, .flagV] [] s t) ∧
    Runs .deca s (fun t => t.a = s.a - 1 ∧ NZ (s.a - 1) t ∧
      (t.flagV = true ↔ ¬ Fits 8 (s.a.toInt - 1)) ∧ Past 1 s t ∧
      Frame [.a, .flagN, .flagZ, .flagV] [] s t) ∧
    Runs .decb s (fun t => t.b = s.b - 1 ∧ NZ (s.b - 1) t ∧
      (t.flagV = true ↔ ¬ Fits 8 (s.b.toInt - 1)) ∧ Past 1 s t ∧
      Frame [.b, .flagN, .flagZ, .flagV] [] s t)) ∧
  (∀ (m : MemX) (ea : Word) (v : Byte) (s s1 : State),
    memAddress .all (s.nextPc (1 + m.toMem.length)) m.toMem s = .next (ea, s1) →
    HasByte s ea v → CanStore s ea →
    Runs (.inc m) s (fun t => HasByte t ea (v + 1) ∧ NZ (v + 1) t ∧
      (t.flagV = true ↔ ¬ Fits 8 (v.toInt + 1)) ∧ Past (1 + m.toMem.length) s t ∧
      Frame [.flagN, .flagZ, .flagV] [ea] (Mem.after m.toMem s) t) ∧
    Runs (.dec m) s (fun t => HasByte t ea (v - 1) ∧ NZ (v - 1) t ∧
      (t.flagV = true ↔ ¬ Fits 8 (v.toInt - 1)) ∧ Past (1 + m.toMem.length) s t ∧
      Frame [.flagN, .flagZ, .flagV] [ea] (Mem.after m.toMem s) t))

/-- DAA (R216, D17): in the states that an addition of two packed-BCD bytes and a carry can leave, $06 is
added for the low digit and $60 for the high digit, C tells the $60 or keeps the old carry, N and Z
tell the result; V is open. In the other states DAA completes as well, with A, N, Z, V and C open. H
never changes. The states named here are those that R216 calls `valid` but for C = 0, H = 1, A = $00
to $03, which no such addition leaves and where D17 and A16 have draws: that the model follows these
there is its choice (log 28). -/
def Obligations.DecimalAdjustCorrectsBothDigits : Prop :=
  ∀ s : State,
    let hi := s.a.toNat / 16
    let lo := s.a.toNat % 16
    let low : Prop := s.flagH = true ∨ 9 < lo
    let high : Prop := s.flagC = true ∨ 9 < hi ∨ (hi = 9 ∧ 9 < lo)
    let valid : Prop :=
      (s.flagC = false ∧ s.flagH = false) ∨ (s.flagC = false ∧ s.flagH = true ∧ 1 ≤ hi ∧ lo ≤ 3) ∨
      (s.flagC = true ∧ s.flagH = false ∧ hi ≤ 2) ∨
      (s.flagC = true ∧ s.flagH = true ∧ hi ≤ 3 ∧ lo ≤ 3)
    Runs .daa s (fun t => Past 2 s t ∧
      Frame [.a, .flagN, .flagZ, .flagV, .flagC, .draws] [] s t ∧
      (valid →
        (low → high → t.a = s.a + 0x66) ∧ (low → ¬ high → t.a = s.a + 0x06) ∧
        (¬ low → high → t.a = s.a + 0x60) ∧ (¬ low → ¬ high → t.a = s.a) ∧
        (t.flagC = true ↔ high) ∧ NZ t.a t))

/-- After the addition of two packed-BCD bytes with ADDA, DAA leaves their decimal sum: its last two
digits in A and its hundreds digit in C (R216). -/
def Obligations.DecimalAdjustGivesTheDecimalSum : Prop :=
  ∀ (s : State) (m : Byte),
    let bcd (v : Byte) : Prop := v.toNat / 16 ≤ 9 ∧ v.toNat % 16 ≤ 9
    let value (v : Byte) : Nat := 10 * (v.toNat / 16) + v.toNat % 16
    bcd s.a → bcd m →
    Runs (.adda (.imm m)) s (fun t => Runs .daa t (fun u =>
      bcd u.a ∧ value u.a + 100 * u.flagC.toNat = value s.a + value m))

/-! ### Compare, test, multiply, divide, clear, complement, negate -/

/-- The compares (R250 to R257): the flags of the subtraction, no register and no memory changed. -/
def Obligations.ComparesSetFlagsAlone : Prop :=
  (∀ s : State, Runs .cba s (fun t => SubFlags s.a s.b false t ∧ Past 2 s t ∧
    Frame [.flagN, .flagZ, .flagV, .flagC] [] s t)) ∧
  (∀ (o : Opr 8) (m : Byte) (s s1 : State),
    operand8 (s.nextPc (1 + o.length)) o s = .next (m, s1) →
    Runs (.cmpa o) s (fun t => SubFlags s.a m false t ∧ Past (1 + o.length) s t ∧
      Frame [.flagN, .flagZ, .flagV, .flagC] [] (Opr.after o s) t) ∧
    Runs (.cmpb o) s (fun t => SubFlags s.b m false t ∧ Past (1 + o.length) s t ∧
      Frame [.flagN, .flagZ, .flagV, .flagC] [] (Opr.after o s) t)) ∧
  (∀ (o : Opr 16) (m : Word) (s s1 : State),
    operand16 (s.nextPc (1 + o.length)) o s = .next (m, s1) →
    Runs (.cpd o) s (fun t => SubFlags (mkWord s.a s.b) m false t ∧ Past (1 + o.length) s t ∧
      Frame [.flagN, .flagZ, .flagV, .flagC] [] (Opr.after o s) t) ∧
    (o.autoBase ≠ some .sp →
      Runs (.cps o) s (fun t => SubFlags s.sp m false t ∧ Past (1 + o.length) s t ∧
        Frame [.flagN, .flagZ, .flagV, .flagC] [] (Opr.after o s) t)) ∧
    (o.autoBase ≠ some .x →
      Runs (.cpx o) s (fun t => SubFlags s.x m false t ∧ Past (1 + o.length) s t ∧
        Frame [.flagN, .flagZ, .flagV, .flagC] [] (Opr.after o s) t)) ∧
    (o.autoBase ≠ some .y →
      Runs (.cpy o) s (fun t => SubFlags s.y m false t ∧ Past (1 + o.length) s t ∧
        Frame [.flagN, .flagZ, .flagV, .flagC] [] (Opr.after o s) t)))

/-- The tests and the clears (R258 to R260, R274 to R276): a test sets N and Z from the operand and
clears V and C; a clear stores zero, sets Z and clears N, V and C. CLR needs no value in the byte. -/
def Obligations.TestsAndClearsClearOverflowAndCarry : Prop :=
  (∀ s : State,
    Runs .tsta s (fun t => NZ s.a t ∧ t.flagV = false ∧ t.flagC = false ∧ Past 1 s t ∧
      Frame [.flagN, .flagZ, .flagV, .flagC] [] s t) ∧
    Runs .tstb s (fun t => NZ s.b t ∧ t.flagV = false ∧ t.flagC = false ∧ Past 1 s t ∧
      Frame [.flagN, .flagZ, .flagV, .flagC] [] s t) ∧
    Runs .clra s (fun t => t.a = 0 ∧ t.flagN = false ∧ t.flagZ = true ∧ t.flagV = false ∧
      t.flagC = false ∧ Past 1 s t ∧ Frame [.a, .flagN, .flagZ, .flagV, .flagC] [] s t) ∧
    Runs .clrb s (fun t => t.b = 0 ∧ t.flagN = false ∧ t.flagZ = true ∧ t.flagV = false ∧
      t.flagC = false ∧ Past 1 s t ∧ Frame [.b, .flagN, .flagZ, .flagV, .flagC] [] s t)) ∧
  (∀ (m : MemX) (ea : Word) (s s1 : State),
    memAddress .all (s.nextPc (1 + m.toMem.length)) m.toMem s = .next (ea, s1) →
    (∀ v, HasByte s ea v →
      Runs (.tst m) s (fun t => NZ v t ∧ t.flagV = false ∧ t.flagC = false ∧
        Past (1 + m.toMem.length) s t ∧
        Frame [.flagN, .flagZ, .flagV, .flagC] [] (Mem.after m.toMem s) t)) ∧
    (CanStore s ea →
      Runs (.clr m) s (fun t => HasByte t ea 0 ∧ t.flagN = false ∧ t.flagZ = true ∧
        t.flagV = false ∧ t.flagC = false ∧ Past (1 + m.toMem.length) s t ∧
        Frame [.flagN, .flagZ, .flagV, .flagC] [ea] (Mem.after m.toMem s) t)))

/-- The products (R261 to R264): MUL gives A times B in D and C from bit 7; EMUL and EMULS give D times
Y in Y:D, unsigned and signed, N from bit 31, Z from the whole product, C from bit 15. -/
def Obligations.MultipliesGiveTheExactProduct : Prop :=
  ∀ s : State,
    Runs .mul s (fun t => (mkWord t.a t.b).toNat = s.a.toNat * s.b.toNat ∧
      t.flagC = t.b.msb ∧ Past 1 s t ∧ Frame [.a, .b, .flagC] [] s t) ∧
    Runs .emul s (fun t =>
      t.y.toNat * 65536 + (mkWord t.a t.b).toNat = (mkWord s.a s.b).toNat * s.y.toNat ∧
      t.flagN = t.y.msb ∧ (t.flagZ = true ↔ (mkWord s.a s.b).toNat * s.y.toNat = 0) ∧
      t.flagC = t.a.msb ∧ Past 1 s t ∧ Frame [.a, .b, .y, .flagN, .flagZ, .flagC] [] s t) ∧
    Runs .emuls s (fun t =>
      t.y.toInt * 65536 + (mkWord t.a t.b).toNat = (mkWord s.a s.b).toInt * s.y.toInt ∧
      t.flagN = t.y.msb ∧ (t.flagZ = true ↔ (mkWord s.a s.b).toInt * s.y.toInt = 0) ∧
      t.flagC = t.a.msb ∧ Past 2 s t ∧ Frame [.a, .b, .y, .flagN, .flagZ, .flagC] [] s t)

/-- The unsigned divides (R266, R268, R269). Where the quotient fits, quotient times divisor plus
remainder is the dividend and the remainder is less than the divisor. After a zero divisor C is set;
FDIV and IDIV then leave $FFFF in X; an overflow sets V. Every open value stays open. -/
def Obligations.UnsignedDividesGiveQuotientAndRemainder : Prop :=
  ∀ s : State,
    Runs .ediv s (fun t => Past 1 s t ∧
      Frame [.a, .b, .y, .flagN, .flagZ, .flagV, .flagC, .draws] [] s t ∧
      (t.flagC = true ↔ s.x = 0) ∧
      (s.x ≠ 0 → s.x.toNat ≤ s.y.toNat → t.flagV = true) ∧
      (s.y.toNat < s.x.toNat →
        t.y.toNat * s.x.toNat + (mkWord t.a t.b).toNat =
          s.y.toNat * 65536 + (mkWord s.a s.b).toNat ∧
        (mkWord t.a t.b).toNat < s.x.toNat ∧ NZ t.y t ∧ t.flagV = false ∧ t.draws = s.draws)) ∧
    Runs .idiv s (fun t => Past 2 s t ∧
      Frame [.a, .b, .x, .flagZ, .flagV, .flagC, .draws] [] s t ∧
      (t.flagC = true ↔ s.x = 0) ∧ t.flagV = false ∧ (t.flagZ = true ↔ t.x = 0) ∧
      (s.x = 0 → t.x = 0xFFFF) ∧
      (s.x ≠ 0 →
        t.x.toNat * s.x.toNat + (mkWord t.a t.b).toNat = (mkWord s.a s.b).toNat ∧
        (mkWord t.a t.b).toNat < s.x.toNat ∧ t.draws = s.draws)) ∧
    Runs .fdiv s (fun t => Past 2 s t ∧
      Frame [.a, .b, .x, .flagZ, .flagV, .flagC, .draws] [] s t ∧
      (t.flagC = true ↔ s.x = 0) ∧ (t.flagV = true ↔ s.x.toNat ≤ (mkWord s.a s.b).toNat) ∧
      (t.flagZ = true ↔ t.x = 0) ∧
      (s.x.toNat ≤ (mkWord s.a s.b).toNat → t.x = 0xFFFF) ∧
      ((mkWord s.a s.b).toNat < s.x.toNat →
        t.x.toNat * s.x.toNat + (mkWord t.a t.b).toNat = (mkWord s.a s.b).toNat * 65536 ∧
        (mkWord t.a t.b).toNat < s.x.toNat ∧ t.draws = s.draws))

/-- The signed divides (R267, R270): the quotient is rounded toward zero and the remainder has the sign
of the dividend. C tells a zero divisor, V a quotient that does not fit. -/
def Obligations.SignedDividesTruncateTowardZero : Prop :=
  ∀ s : State,
    Runs .edivs s (fun t => Past 2 s t ∧
      Frame [.a, .b, .y, .flagN, .flagZ, .flagV, .flagC, .draws] [] s t ∧
      (t.flagC = true ↔ s.x = 0) ∧
      (s.x ≠ 0 →
        let n : Int := s.y.toInt * 65536 + (mkWord s.a s.b).toNat
        (t.flagV = true ↔ ¬ Fits 16 (n.tdiv s.x.toInt)) ∧
        (Fits 16 (n.tdiv s.x.toInt) →
          t.y.toInt = n.tdiv s.x.toInt ∧ (mkWord t.a t.b).toInt = n.tmod s.x.toInt ∧
          NZ t.y t ∧ t.draws = s.draws))) ∧
    Runs .idivs s (fun t => Past 2 s t ∧
      Frame [.a, .b, .x, .flagN, .flagZ, .flagV, .flagC, .draws] [] s t ∧
      (t.flagC = true ↔ s.x = 0) ∧
      (s.x ≠ 0 →
        let n : Int := (mkWord s.a s.b).toInt
        (t.flagV = true ↔ n = -32768 ∧ s.x.toInt = -1) ∧
        (¬ (n = -32768 ∧ s.x.toInt = -1) →
          t.x.toInt = n.tdiv s.x.toInt ∧ (mkWord t.a t.b).toInt = n.tmod s.x.toInt ∧
          NZ t.x t ∧ t.draws = s.draws)))

/-- One's and two's complement in memory, A and B (R278 to R283): COM gives $FF minus the operand, V
cleared and C set; NEG gives zero minus the operand with the flags of that subtraction. -/
def Obligations.ComplementAndNegateInvertTheOperand : Prop :=
  (∀ s : State,
    Runs .coma s (fun t => t.a.toNat = 255 - s.a.toNat ∧ NZ t.a t ∧ t.flagV = false ∧
      t.flagC = true ∧ Past 1 s t ∧ Frame [.a, .flagN, .flagZ, .flagV, .flagC] [] s t) ∧
    Runs .comb s (fun t => t.b.toNat = 255 - s.b.toNat ∧ NZ t.b t ∧ t.flagV = false ∧
      t.flagC = true ∧ Past 1 s t ∧ Frame [.b, .flagN, .flagZ, .flagV, .flagC] [] s t) ∧
    Runs .nega s (fun t => t.a = 0 - s.a ∧ SubFlags 0 s.a false t ∧ Past 1 s t ∧
      Frame [.a, .flagN, .flagZ, .flagV, .flagC] [] s t) ∧
    Runs .negb s (fun t => t.b = 0 - s.b ∧ SubFlags 0 s.b false t ∧ Past 1 s t ∧
      Frame [.b, .flagN, .flagZ, .flagV, .flagC] [] s t)) ∧
  (∀ (m : MemX) (ea : Word) (v : Byte) (s s1 : State),
    memAddress .all (s.nextPc (1 + m.toMem.length)) m.toMem s = .next (ea, s1) →
    HasByte s ea v → CanStore s ea →
    Runs (.com m) s (fun t => HasByte t ea (~~~v) ∧ NZ (~~~v) t ∧ t.flagV = false ∧
      t.flagC = true ∧ Past (1 + m.toMem.length) s t ∧
      Frame [.flagN, .flagZ, .flagV, .flagC] [ea] (Mem.after m.toMem s) t) ∧
    Runs (.neg m) s (fun t => HasByte t ea (0 - v) ∧ SubFlags 0 v false t ∧
      Past (1 + m.toMem.length) s t ∧
      Frame [.flagN, .flagZ, .flagV, .flagC] [ea] (Mem.after m.toMem s) t))

/-! ### Branches -/

/-- The short branches on one flag or none (R303 to R312). -/
def Obligations.ShortBranchesOnOneFlag : Prop :=
  ∀ (s : State) (rr : Byte),
    Goes (.bra rr) 2 (rr.signExtend 16) s True ∧ Goes (.brn rr) 2 (rr.signExtend 16) s False ∧
    Goes (.bcc rr) 2 (rr.signExtend 16) s (s.flagC = false) ∧
    Goes (.bcs rr) 2 (rr.signExtend 16) s (s.flagC = true) ∧
    Goes (.beq rr) 2 (rr.signExtend 16) s (s.flagZ = true) ∧
    Goes (.bmi rr) 2 (rr.signExtend 16) s (s.flagN = true) ∧
    Goes (.bne rr) 2 (rr.signExtend 16) s (s.flagZ = false) ∧
    Goes (.bpl rr) 2 (rr.signExtend 16) s (s.flagN = false) ∧
    Goes (.bvc rr) 2 (rr.signExtend 16) s (s.flagV = false) ∧
    Goes (.bvs rr) 2 (rr.signExtend 16) s (s.flagV = true)

/-- The short branches that read an order (R313 to R320). -/
def Obligations.ShortBranchesOnAnOrder : Prop :=
  ∀ (s : State) (rr : Byte),
    Goes (.bhi rr) 2 (rr.signExtend 16) s (s.flagC = false ∧ s.flagZ = false) ∧
    Goes (.bhs rr) 2 (rr.signExtend 16) s (s.flagC = false) ∧
    Goes (.blo rr) 2 (rr.signExtend 16) s (s.flagC = true) ∧
    Goes (.bls rr) 2 (rr.signExtend 16) s (s.flagC = true ∨ s.flagZ = true) ∧
    Goes (.bge rr) 2 (rr.signExtend 16) s (s.flagN = s.flagV) ∧
    Goes (.bgt rr) 2 (rr.signExtend 16) s (s.flagZ = false ∧ s.flagN = s.flagV) ∧
    Goes (.ble rr) 2 (rr.signExtend 16) s (s.flagZ = true ∨ s.flagN ≠ s.flagV) ∧
    Goes (.blt rr) 2 (rr.signExtend 16) s (s.flagN ≠ s.flagV)

/-- The long branches on one flag or none (R321 to R330). -/
def Obligations.LongBranchesOnOneFlag : Prop :=
  ∀ (s : State) (qr : Word),
    Goes (.lbra qr) 4 qr s True ∧ Goes (.lbrn qr) 4 qr s False ∧
    Goes (.lbcc qr) 4 qr s (s.flagC = false) ∧ Goes (.lbcs qr) 4 qr s (s.flagC = true) ∧
    Goes (.lbeq qr) 4 qr s (s.flagZ = true) ∧ Goes (.lbmi qr) 4 qr s (s.flagN = true) ∧
    Goes (.lbne qr) 4 qr s (s.flagZ = false) ∧ Goes (.lbpl qr) 4 qr s (s.flagN = false) ∧
    Goes (.lbvc qr) 4 qr s (s.flagV = false) ∧ Goes (.lbvs qr) 4 qr s (s.flagV = true)

/-- The long branches that read an order (R331 to R338). -/
def Obligations.LongBranchesOnAnOrder : Prop :=
  ∀ (s : State) (qr : Word),
    Goes (.lbhi qr) 4 qr s (s.flagC = false ∧ s.flagZ = false) ∧
    Goes (.lbhs qr) 4 qr s (s.flagC = false) ∧ Goes (.lblo qr) 4 qr s (s.flagC = true) ∧
    Goes (.lbls qr) 4 qr s (s.flagC = true ∨ s.flagZ = true) ∧
    Goes (.lbge qr) 4 qr s (s.flagN = s.flagV) ∧
    Goes (.lbgt qr) 4 qr s (s.flagZ = false ∧ s.flagN = s.flagV) ∧
    Goes (.lble qr) 4 qr s (s.flagZ = true ∨ s.flagN ≠ s.flagV) ∧
    Goes (.lblt qr) 4 qr s (s.flagN ≠ s.flagV)

/-- What the order conditions say after a compare (R302): after `R - M` they give the order of R and M,
as unsigned numbers for HI, HS, LO and LS, as signed numbers for GE, GT, LE and LT. -/
def Obligations.BranchConditionsReadTheComparedOrder : Prop :=
  (∀ (s : State) (m rr : Byte), Runs (.cmpa (.imm m)) s (fun t =>
    Goes (.bhi rr) 2 (rr.signExtend 16) t (m.toNat < s.a.toNat) ∧
    Goes (.bhs rr) 2 (rr.signExtend 16) t (m.toNat ≤ s.a.toNat) ∧
    Goes (.blo rr) 2 (rr.signExtend 16) t (s.a.toNat < m.toNat) ∧
    Goes (.bls rr) 2 (rr.signExtend 16) t (s.a.toNat ≤ m.toNat) ∧
    Goes (.bgt rr) 2 (rr.signExtend 16) t (m.toInt < s.a.toInt) ∧
    Goes (.bge rr) 2 (rr.signExtend 16) t (m.toInt ≤ s.a.toInt) ∧
    Goes (.blt rr) 2 (rr.signExtend 16) t (s.a.toInt < m.toInt) ∧
    Goes (.ble rr) 2 (rr.signExtend 16) t (s.a.toInt ≤ m.toInt) ∧
    Goes (.beq rr) 2 (rr.signExtend 16) t (s.a = m) ∧
    Goes (.bne rr) 2 (rr.signExtend 16) t (s.a ≠ m))) ∧
  (∀ (s : State) (m qr : Word), Runs (.cpx (.imm m)) s (fun t =>
    Goes (.lbhi qr) 4 qr t (m.toNat < s.x.toNat) ∧
    Goes (.lbhs qr) 4 qr t (m.toNat ≤ s.x.toNat) ∧
    Goes (.lblo qr) 4 qr t (s.x.toNat < m.toNat) ∧
    Goes (.lbls qr) 4 qr t (s.x.toNat ≤ m.toNat) ∧
    Goes (.lbgt qr) 4 qr t (m.toInt < s.x.toInt) ∧
    Goes (.lbge qr) 4 qr t (m.toInt ≤ s.x.toInt) ∧
    Goes (.lblt qr) 4 qr t (s.x.toInt < m.toInt) ∧
    Goes (.lble qr) 4 qr t (s.x.toInt ≤ m.toInt) ∧
    Goes (.lbeq qr) 4 qr t (s.x = m) ∧
    Goes (.lbne qr) 4 qr t (s.x ≠ m)))

/-- BRCLR and BRSET (R339 to R341): taken when every bit of the mask is clear, or set, in the byte; a
zero mask always branches; nothing is stored, and an auto base changes either way. -/
def Obligations.BitBranchesTestTheMaskedBits : Prop :=
  ∀ (m : Mem) (mm rr v : Byte) (ea : Word) (s s1 : State),
    memAddress .noind (s.nextPc (3 + m.length)) m s = .next (ea, s1) → HasByte s ea v →
    Runs (.brclr m mm rr) s (fun t => Frame [] [] (Mem.after m s) t ∧
      ((∀ k < 8, mm.getLsbD k = true → v.getLsbD k = false) →
        t.pc = s.pc + BitVec.ofNat 16 (3 + m.length) + rr.signExtend 16) ∧
      (¬ (∀ k < 8, mm.getLsbD k = true → v.getLsbD k = false) → Past (3 + m.length) s t)) ∧
    Runs (.brset m mm rr) s (fun t => Frame [] [] (Mem.after m s) t ∧
      ((∀ k < 8, mm.getLsbD k = true → v.getLsbD k = true) →
        t.pc = s.pc + BitVec.ofNat 16 (3 + m.length) + rr.signExtend 16) ∧
      (¬ (∀ k < 8, mm.getLsbD k = true → v.getLsbD k = true) → Past (3 + m.length) s t))

/-- The loop primitives (R342 to R348): the counter, 8 bits for A and B and 16 for D, X, Y and SP, goes
down by one, up by one or stays, the branch reads its new value, and no flag changes. -/
def Obligations.LoopPrimitivesStepAndTestTheCounter : Prop :=
  ∀ (c : Counter) (rel : BitVec 9) (s : State),
    let size : Nat := Counter.modulus c
    let down := (s.counter c + size - 1) % size
    let up := (s.counter c + 1) % size
    Runs (.dbeq c rel) s (fun t => t.counter c = down ∧ Frame (Counter.parts c) [] s t ∧
      t.pc = s.pc + 3 + (if down = 0 then rel.signExtend 16 else 0)) ∧
    Runs (.dbne c rel) s (fun t => t.counter c = down ∧ Frame (Counter.parts c) [] s t ∧
      t.pc = s.pc + 3 + (if down = 0 then 0 else rel.signExtend 16)) ∧
    Runs (.ibeq c rel) s (fun t => t.counter c = up ∧ Frame (Counter.parts c) [] s t ∧
      t.pc = s.pc + 3 + (if up = 0 then rel.signExtend 16 else 0)) ∧
    Runs (.ibne c rel) s (fun t => t.counter c = up ∧ Frame (Counter.parts c) [] s t ∧
      t.pc = s.pc + 3 + (if up = 0 then 0 else rel.signExtend 16)) ∧
    Runs (.tbeq c rel) s (fun t => Frame [] [] s t ∧
      t.pc = s.pc + 3 + (if s.counter c = 0 then rel.signExtend 16 else 0)) ∧
    Runs (.tbne c rel) s (fun t => Frame [] [] s t ∧
      t.pc = s.pc + 3 + (if s.counter c = 0 then 0 else rel.signExtend 16))

/-! ### Logic and bit instructions -/

/-- AND, OR, exclusive OR and bit test on A and B (R350 to R352, R354 to R357, R362, R363): the result
bit by bit, N and Z from it, V cleared, C unchanged; a bit test keeps the register. -/
def Obligations.LogicOnAccumulatorsClearsOverflow : Prop :=
  ∀ (o : Opr 8) (m : Byte) (s s1 : State),
    operand8 (s.nextPc (1 + o.length)) o s = .next (m, s1) →
    Runs (.anda o) s (fun t => (∀ k < 8, t.a.getLsbD k = (s.a.getLsbD k && m.getLsbD k)) ∧
      NZ t.a t ∧ t.flagV = false ∧ Past (1 + o.length) s t ∧
      Frame [.a, .flagN, .flagZ, .flagV] [] (Opr.after o s) t) ∧
    Runs (.andb o) s (fun t => (∀ k < 8, t.b.getLsbD k = (s.b.getLsbD k && m.getLsbD k)) ∧
      NZ t.b t ∧ t.flagV = false ∧ Past (1 + o.length) s t ∧
      Frame [.b, .flagN, .flagZ, .flagV] [] (Opr.after o s) t) ∧
    Runs (.oraa o) s (fun t => (∀ k < 8, t.a.getLsbD k = (s.a.getLsbD k || m.getLsbD k)) ∧
      NZ t.a t ∧ t.flagV = false ∧ Past (1 + o.length) s t ∧
      Frame [.a, .flagN, .flagZ, .flagV] [] (Opr.after o s) t) ∧
    Runs (.orab o) s (fun t => (∀ k < 8, t.b.getLsbD k = (s.b.getLsbD k || m.getLsbD k)) ∧
      NZ t.b t ∧ t.flagV = false ∧ Past (1 + o.length) s t ∧
      Frame [.b, .flagN, .flagZ, .flagV] [] (Opr.after o s) t) ∧
    Runs (.eora o) s (fun t => (∀ k < 8, t.a.getLsbD k = (s.a.getLsbD k != m.getLsbD k)) ∧
      NZ t.a t ∧ t.flagV = false ∧ Past (1 + o.length) s t ∧
      Frame [.a, .flagN, .flagZ, .flagV] [] (Opr.after o s) t) ∧
    Runs (.eorb o) s (fun t => (∀ k < 8, t.b.getLsbD k = (s.b.getLsbD k != m.getLsbD k)) ∧
      NZ t.b t ∧ t.flagV = false ∧ Past (1 + o.length) s t ∧
      Frame [.b, .flagN, .flagZ, .flagV] [] (Opr.after o s) t) ∧
    Runs (.bita o) s (fun t => NZ (s.a &&& m) t ∧ t.flagV = false ∧ Past (1 + o.length) s t ∧
      Frame [.flagN, .flagZ, .flagV] [] (Opr.after o s) t) ∧
    Runs (.bitb o) s (fun t => NZ (s.b &&& m) t ∧ t.flagV = false ∧ Past (1 + o.length) s t ∧
      Frame [.flagN, .flagZ, .flagV] [] (Opr.after o s) t)

/-- BSET and BCLR (R360, R361, R364): the bits of the mask are set, or cleared, in the byte at the
operand's address; N and Z tell the stored byte, V is cleared, C unchanged. -/
def Obligations.BitSetAndBitClearWriteTheMask : Prop :=
  ∀ (m : Mem) (mm v : Byte) (ea : Word) (s s1 : State),
    memAddress .noind (s.nextPc (2 + m.length)) m s = .next (ea, s1) →
    HasByte s ea v → CanStore s ea →
    Runs (.bset m mm) s (fun t => Past (2 + m.length) s t ∧
      Frame [.flagN, .flagZ, .flagV] [ea] (Mem.after m s) t ∧ t.flagV = false ∧
      ∃ r, HasByte t ea r ∧ NZ r t ∧
        ∀ k < 8, r.getLsbD k = if mm.getLsbD k then true else v.getLsbD k) ∧
    Runs (.bclr m mm) s (fun t => Past (2 + m.length) s t ∧
      Frame [.flagN, .flagZ, .flagV] [ea] (Mem.after m s) t ∧ t.flagV = false ∧
      ∃ r, HasByte t ea r ∧ NZ r t ∧
        ∀ k < 8, r.getLsbD k = if mm.getLsbD k then false else v.getLsbD k)

/-! ### Shifts and rotates -/

/-- The left shifts (R370, R372 to R375, R380 to R383): the bits move up one place, 0 enters, C is the
old top bit, V is N xor C; LSL and ASL do one thing. -/
def Obligations.LeftShiftsDoubleTheOperand : Prop :=
  (∀ s : State,
    (∀ i ∈ [Instr.lsla, .asla], Runs i s (fun t => t.a.toNat = 2 * s.a.toNat % 256 ∧
      ShiftFlags t.a s.a.msb t ∧ Past 1 s t ∧
      Frame [.a, .flagN, .flagZ, .flagV, .flagC] [] s t)) ∧
    (∀ i ∈ [Instr.lslb, .aslb], Runs i s (fun t => t.b.toNat = 2 * s.b.toNat % 256 ∧
      ShiftFlags t.b s.b.msb t ∧ Past 1 s t ∧
      Frame [.b, .flagN, .flagZ, .flagV, .flagC] [] s t)) ∧
    (∀ i ∈ [Instr.lsld, .asld], Runs i s (fun t =>
      (mkWord t.a t.b).toNat = 2 * (mkWord s.a s.b).toNat % 65536 ∧
      ShiftFlags (mkWord t.a t.b) s.a.msb t ∧ Past 1 s t ∧
      Frame [.a, .b, .flagN, .flagZ, .flagV, .flagC] [] s t))) ∧
  (∀ (m : MemX) (ea : Word) (v : Byte) (s s1 : State),
    memAddress .all (s.nextPc (1 + m.toMem.length)) m.toMem s = .next (ea, s1) →
    HasByte s ea v → CanStore s ea →
    ∀ i ∈ [Instr.lsl m, .asl m], Runs i s (fun t => ∃ r, HasByte t ea r ∧
      r.toNat = 2 * v.toNat % 256 ∧ ShiftFlags r v.msb t ∧ Past (1 + m.toMem.length) s t ∧
      Frame [.flagN, .flagZ, .flagV, .flagC] [ea] (Mem.after m.toMem s) t))

/-- The right shifts (R370, R376 to R379, R384 to R386): the bits move down one place, 0 enters for LSR
and the top bit stays for ASR; C is the old bit 0, V is N xor C. -/
def Obligations.RightShiftsHalveTheOperand : Prop :=
  (∀ s : State,
    Runs .lsra s (fun t => t.a.toNat = s.a.toNat / 2 ∧ ShiftFlags t.a (s.a.getLsbD 0) t ∧
      Past 1 s t ∧ Frame [.a, .flagN, .flagZ, .flagV, .flagC] [] s t) ∧
    Runs .lsrb s (fun t => t.b.toNat = s.b.toNat / 2 ∧ ShiftFlags t.b (s.b.getLsbD 0) t ∧
      Past 1 s t ∧ Frame [.b, .flagN, .flagZ, .flagV, .flagC] [] s t) ∧
    Runs .lsrd s (fun t => (mkWord t.a t.b).toNat = (mkWord s.a s.b).toNat / 2 ∧
      ShiftFlags (mkWord t.a t.b) (s.b.getLsbD 0) t ∧ Past 1 s t ∧
      Frame [.a, .b, .flagN, .flagZ, .flagV, .flagC] [] s t) ∧
    Runs .asra s (fun t => t.a.toInt = s.a.toInt / 2 ∧ ShiftFlags t.a (s.a.getLsbD 0) t ∧
      Past 1 s t ∧ Frame [.a, .flagN, .flagZ, .flagV, .flagC] [] s t) ∧
    Runs .asrb s (fun t => t.b.toInt = s.b.toInt / 2 ∧ ShiftFlags t.b (s.b.getLsbD 0) t ∧
      Past 1 s t ∧ Frame [.b, .flagN, .flagZ, .flagV, .flagC] [] s t)) ∧
  (∀ (m : MemX) (ea : Word) (v : Byte) (s s1 : State),
    memAddress .all (s.nextPc (1 + m.toMem.length)) m.toMem s = .next (ea, s1) →
    HasByte s ea v → CanStore s ea →
    Runs (.lsr m) s (fun t => ∃ r, HasByte t ea r ∧ r.toNat = v.toNat / 2 ∧
      ShiftFlags r (v.getLsbD 0) t ∧ Past (1 + m.toMem.length) s t ∧
      Frame [.flagN, .flagZ, .flagV, .flagC] [ea] (Mem.after m.toMem s) t) ∧
    Runs (.asr m) s (fun t => ∃ r, HasByte t ea r ∧ r.toInt = v.toInt / 2 ∧
      ShiftFlags r (v.getLsbD 0) t ∧ Past (1 + m.toMem.length) s t ∧
      Frame [.flagN, .flagZ, .flagV, .flagC] [ea] (Mem.after m.toMem s) t))

/-- The rotates (R387 to R393): the byte and C turn by one place together. -/
def Obligations.RotatesTurnTheByteWithCarry : Prop :=
  (∀ s : State,
    Runs .rola s (fun t => t.a.toNat + 256 * t.flagC.toNat = 2 * s.a.toNat + s.flagC.toNat ∧
      ShiftFlags t.a s.a.msb t ∧ Past 1 s t ∧
      Frame [.a, .flagN, .flagZ, .flagV, .flagC] [] s t) ∧
    Runs .rolb s (fun t => t.b.toNat + 256 * t.flagC.toNat = 2 * s.b.toNat + s.flagC.toNat ∧
      ShiftFlags t.b s.b.msb t ∧ Past 1 s t ∧
      Frame [.b, .flagN, .flagZ, .flagV, .flagC] [] s t) ∧
    Runs .rora s (fun t => 2 * t.a.toNat + t.flagC.toNat = s.a.toNat + 256 * s.flagC.toNat ∧
      ShiftFlags t.a (s.a.getLsbD 0) t ∧ Past 1 s t ∧
      Frame [.a, .flagN, .flagZ, .flagV, .flagC] [] s t) ∧
    Runs .rorb s (fun t => 2 * t.b.toNat + t.flagC.toNat = s.b.toNat + 256 * s.flagC.toNat ∧
      ShiftFlags t.b (s.b.getLsbD 0) t ∧ Past 1 s t ∧
      Frame [.b, .flagN, .flagZ, .flagV, .flagC] [] s t)) ∧
  (∀ (m : MemX) (ea : Word) (v : Byte) (s s1 : State),
    memAddress .all (s.nextPc (1 + m.toMem.length)) m.toMem s = .next (ea, s1) →
    HasByte s ea v → CanStore s ea →
    Runs (.rol m) s (fun t => ∃ r, HasByte t ea r ∧
      r.toNat + 256 * t.flagC.toNat = 2 * v.toNat + s.flagC.toNat ∧ ShiftFlags r v.msb t ∧
      Past (1 + m.toMem.length) s t ∧
      Frame [.flagN, .flagZ, .flagV, .flagC] [ea] (Mem.after m.toMem s) t) ∧
    Runs (.ror m) s (fun t => ∃ r, HasByte t ea r ∧
      2 * r.toNat + t.flagC.toNat = v.toNat + 256 * s.flagC.toNat ∧
      ShiftFlags r (v.getLsbD 0) t ∧ Past (1 + m.toMem.length) s t ∧
      Frame [.flagN, .flagZ, .flagV, .flagC] [ea] (Mem.after m.toMem s) t))

/-! ### Exceptions -/

/-- Which pending exception is taken and what taking it stacks (R404, R406; the operations are the
model's, which no run uses, log 15). Of the pending sources that the masks let through the one of the
highest priority is taken. Where the nine bytes below SP can be stored and the vector can be
read afterwards: the return address, Y, X, A, B and CCR from the top down; SP goes down by
nine; I is set, X for XIRQ alone; the program counter is the vector's word. -/
def Obligations.ExceptionEntryStacksTheRegisters : Prop :=
  (∀ (promoted : Option (Fin 57)) (pending : List ExceptionSource) (s : State),
    match firstException promoted pending s with
    | some e => e ∈ pending ∧ e.enabled s = true ∧
        ∀ f ∈ pending, f.enabled s = true → e.rank promoted ≤ f.rank promoted
    | none => ∀ f ∈ pending, f.enabled s = false) ∧
  ∀ (e : ExceptionSource) (returnTo target : Word) (s : State), e.isReset = false →
    (∀ k : Nat, 1 ≤ k → k ≤ 9 → CanStore s (s.sp - BitVec.ofNat 16 k)) →
    (∀ k : Nat, 1 ≤ k → k ≤ 9 → s.sp - BitVec.ofNat 16 k ≠ e.vector ∧
      s.sp - BitVec.ofNat 16 k ≠ e.vector + 1) →
    HasWord s e.vector target →
    ∃ t, takeException e returnTo s = .next t ∧ t.sp = s.sp - 9 ∧ t.pc = target ∧
      HasWord t (s.sp - 2) returnTo ∧ HasWord t (s.sp - 4) s.y ∧ HasWord t (s.sp - 6) s.x ∧
      HasByte t (s.sp - 7) s.a ∧ HasByte t (s.sp - 8) s.b ∧ HasByte t (s.sp - 9) s.ccr ∧
      t.flagI = true ∧ t.flagX = (s.flagX || decide (e = .xirq)) ∧
      Frame [.sp, .flagI, .flagX]
        [s.sp - 1, s.sp - 2, s.sp - 3, s.sp - 4, s.sp - 5, s.sp - 6, s.sp - 7, s.sp - 8, s.sp - 9]
        s t

/-- Returning undoes the entry (R406, R407): from the state that the entry left, the return restores A,
B, X, Y, SP, every bit of CCR, and continues at the return address. -/
def Obligations.ExceptionReturnRestoresTheRegisters : Prop :=
  ∀ (e : ExceptionSource) (returnTo : Word) (s t : State), e.isReset = false →
    takeException e returnTo s = .next t →
    ∃ u, returnFromException t = .next u ∧ u.pc = returnTo ∧ u.a = s.a ∧ u.b = s.b ∧ u.x = s.x ∧
      u.y = s.y ∧ u.sp = s.sp ∧ u.ccr = s.ccr ∧ u.mem = t.mem ∧ u.draws = s.draws ∧
      u.launch = s.launch
end

