-- ==== Sys2Proof/Laws/Decode.lean ====
section
/-! SUPPORT. The decoder read against the encoder, operand by operand and format by format: what each
parser reads from the bytes of an operand, and which bytes it can have read. -/

namespace Sys2Proof

namespace Row

/-! ### Reading back what was written -/

@[simp] theorem bind_done {α β : Type} (a : α) (q : α → Parser β) (bs : List Byte) :
    bind (done a) q bs = q a bs := rfl

@[simp] theorem byte_cons (b : Byte) (rest : List Byte) : byte (b :: rest) = .ok (b, rest) := rfl

/-- Reading with `p` and going on. -/
theorem bind_of_ok {α β : Type} {p : Parser α} {q : α → Parser β} {bs rest : List Byte} {a : α}
    (h : p bs = .ok (a, rest)) : bind p q bs = q a rest := by
  simp [bind, h]

theorem word_encode (w : Word) (rest : List Byte) :
    word (encodeWord w ++ rest) = .ok (w, rest) := by
  show Except.ok (mkWord (hiByte w) (loByte w), rest) = _
  rw [mkWord_hiByte_loByte]

theorem off5_fields (r : IdxBase) (n : BitVec 5) :
    (r.code ++ 0#1 ++ n).getLsbD 5 = false ∧
    idxBase ((r.code ++ 0#1 ++ n).extractLsb' 6 2) = r ∧
    (r.code ++ 0#1 ++ n).extractLsb' 0 5 = n := by
  revert n; cases r <;> decide

theorem auto_fields (r : AutoBase) (post : Bool) (n : BitVec 4) :
    (r.code ++ 1#1 ++ BitVec.ofBool post ++ n).getLsbD 5 = true ∧
    autoBase ((r.code ++ 1#1 ++ BitVec.ofBool post ++ n).extractLsb' 6 2) = some r ∧
    (r.code ++ 1#1 ++ BitVec.ofBool post ++ n).getLsbD 4 = post ∧
    (r.code ++ 1#1 ++ BitVec.ofBool post ++ n).extractLsb' 0 4 = n := by
  revert n; cases r <;> cases post <;> decide

theorem off9_value (n : BitVec 9) : n.extractLsb' 8 1 ++ n.extractLsb' 0 8 = n := by
  revert n; decide

/-- Every indexed operand is read back from its postbyte and extension bytes (R82 to R88). -/
theorem idxAny_encode (x : Idx) (rest : List Byte) :
    idxAny (x.encode ++ rest) = .ok (x, rest) := by
  cases x with
  | off5 r n =>
    obtain ⟨h1, h2, h3⟩ := off5_fields r n
    show (if (r.code ++ 0#1 ++ n).getLsbD 5 = false then _ else _ : Parser Idx) rest = _
    rw [if_pos h1, h2, h3]
    rfl
  | auto r post n =>
    obtain ⟨h1, h2, h3, h4⟩ := auto_fields r post n
    show (if (r.code ++ 1#1 ++ BitVec.ofBool post ++ n).getLsbD 5 = false then _ else _ :
      Parser Idx) rest = _
    rw [if_neg (by rw [h1]; decide), h2, h3, h4]
    rfl
  | off9 r n =>
    have hn := off9_value n
    have hb : n.extractLsb' 8 1 = 0#1 ∨ n.extractLsb' 8 1 = 1#1 := by
      revert n; decide
    simp only [Idx.encode]
    generalize n.extractLsb' 8 1 = b at *
    rcases hb with rfl | rfl <;> cases r <;>
      exact congrArg (fun k => Except.ok (Idx.off9 _ k, rest)) hn
  | off16 r n =>
    cases r <;> exact bind_of_ok (q := fun v => done (Idx.off16 _ v)) (word_encode n rest)
  | ind16 r n =>
    cases r <;> exact bind_of_ok (q := fun v => done (Idx.ind16 _ v)) (word_encode n rest)
  | acc r o => cases r <;> cases o <;> rfl
  | indD r => cases r <;> rfl

theorem idx_encode (c : IdxClass) (x : Idx) (h : x.inClass c = true) (rest : List Byte) :
    idx c (x.encode ++ rest) = .ok (x, rest) := by
  unfold idx
  rw [bind_of_ok (idxAny_encode x rest), if_pos h]
  rfl

theorem all_inClass (x : Idx) : x.inClass .all = true := rfl

/-- An instruction is read by the row of its opcode (R73). -/
theorem decodeGeneral_cons {op : Byte} {p : Parser Instr} (h : page1 op = p) (bs : List Byte) :
    decodeGeneral (op :: bs) = p bs := by
  rw [← h]; rfl

/-- A page-2 instruction is read by the row of its second byte (R72). -/
theorem decodeGeneral_page2 {op : Byte} {p : Parser Instr} (h : page2 op = p) (bs : List Byte) :
    decodeGeneral (0x18 :: op :: bs) = p bs := by
  rw [← h]; rfl

/-! ### The formats with an 8-bit or 16-bit source operand, and the other shared sets of formats -/

theorem opr8_encode {f : Opr 8 → Instr} {i d e x : Byte} (hi : page1 i = imm8 f)
    (hd : page1 d = srcDir f) (he : page1 e = srcExt f) (hx : page1 x = srcIdx f) (o : Opr 8)
    (rest : List Byte) :
    decodeGeneral (encodeOpr8 i d e x o ++ rest) = .ok (f o, rest) := by
  cases o with
  | imm v => exact decodeGeneral_cons hi _
  | mem m =>
    cases m with
    | dir v => exact decodeGeneral_cons hd _
    | ext v =>
      exact (decodeGeneral_cons he _).trans (bind_of_ok (word_encode v rest))
    | idx y =>
      exact (decodeGeneral_cons hx _).trans (bind_of_ok (idx_encode .all y rfl rest))

theorem opr16_encode {f : Opr 16 → Instr} {i d e x : Byte} (hi : page1 i = imm16 f)
    (hd : page1 d = srcDir f) (he : page1 e = srcExt f) (hx : page1 x = srcIdx f) (o : Opr 16)
    (rest : List Byte) :
    decodeGeneral (encodeOpr16 i d e x o ++ rest) = .ok (f o, rest) := by
  cases o with
  | imm v => exact (decodeGeneral_cons hi _).trans (bind_of_ok (word_encode v rest))
  | mem m =>
    cases m with
    | dir v => exact decodeGeneral_cons hd _
    | ext v =>
      exact (decodeGeneral_cons he _).trans (bind_of_ok (word_encode v rest))
    | idx y =>
      exact (decodeGeneral_cons hx _).trans (bind_of_ok (idx_encode .all y rfl rest))

theorem mem_encode {f : Mem → Instr} {d e x : Byte} (hd : page1 d = memDir f)
    (he : page1 e = memExt f) (hx : page1 x = memIdx f) (m : Mem) (rest : List Byte) :
    decodeGeneral (m.encode d e x ++ rest) = .ok (f m, rest) := by
  cases m with
  | dir v => exact decodeGeneral_cons hd _
  | ext v => exact (decodeGeneral_cons he _).trans (bind_of_ok (word_encode v rest))
  | idx y => exact (decodeGeneral_cons hx _).trans (bind_of_ok (idx_encode .all y rfl rest))

theorem memX_encode {f : MemX → Instr} {e x : Byte} (he : page1 e = rmwExt f)
    (hx : page1 x = rmwIdx f) (m : MemX) (rest : List Byte) :
    decodeGeneral (m.encode e x ++ rest) = .ok (f m, rest) := by
  cases m with
  | ext v => exact (decodeGeneral_cons he _).trans (bind_of_ok (word_encode v rest))
  | idx y => exact (decodeGeneral_cons hx _).trans (bind_of_ok (idx_encode .all y rfl rest))

theorem lea_encode {f : Idx → Instr} {op : Byte} (h : page1 op = lea f) (x : Idx)
    (hx : x.inClass .noind = true) (rest : List Byte) :
    decodeGeneral (op :: x.encode ++ rest) = .ok (f x, rest) :=
  (decodeGeneral_cons h _).trans (bind_of_ok (idx_encode .noind x hx rest))

theorem bit_encode {f : Mem → Byte → Instr} {d e x : Byte} (hd : page1 d = bitDir f)
    (he : page1 e = bitExt f) (hx : page1 x = bitIdx f) (m : Mem) (mm : Byte)
    (hm : m.inClass .noind = true) (rest : List Byte) :
    decodeGeneral (m.encode d e x ++ [mm] ++ rest) = .ok (f m mm, rest) := by
  rw [List.append_assoc]
  cases m with
  | dir v => exact decodeGeneral_cons hd _
  | ext v => exact (decodeGeneral_cons he _).trans (bind_of_ok (word_encode v _))
  | idx y => exact (decodeGeneral_cons hx _).trans (bind_of_ok (idx_encode .noind y hm _))

theorem bitBranch_encode {f : Mem → Byte → Byte → Instr} {d e x : Byte}
    (hd : page1 d = bitBranchDir f) (he : page1 e = bitBranchExt f) (hx : page1 x = bitBranchIdx f)
    (m : Mem) (mm rr : Byte) (hm : m.inClass .noind = true) (rest : List Byte) :
    decodeGeneral (m.encode d e x ++ [mm, rr] ++ rest) = .ok (f m mm rr, rest) := by
  rw [List.append_assoc]
  cases m with
  | dir v => exact decodeGeneral_cons hd _
  | ext v => exact (decodeGeneral_cons he _).trans (bind_of_ok (word_encode v _))
  | idx y => exact (decodeGeneral_cons hx _).trans (bind_of_ok (idx_encode .noind y hm _))

theorem rel16_encode {f : Word → Instr} {op : Byte} (h : page2 op = rel16 f) (qr : Word)
    (rest : List Byte) :
    decodeGeneral (0x18 :: op :: encodeWord qr ++ rest) = .ok (f qr, rest) :=
  (decodeGeneral_page2 h _).trans (bind_of_ok (word_encode qr rest))

theorem loop_fields (k : BitVec 3) (b : BitVec 1) (c : Counter) :
    (k ++ b ++ 0#1 ++ c.code).getLsbD 3 = false ∧ (k ++ b ++ 0#1 ++ c.code).extractLsb' 5 3 = k ∧
    counterOfCode ((k ++ b ++ 0#1 ++ c.code).extractLsb' 0 3) = some c ∧
    (k ++ b ++ 0#1 ++ c.code).extractLsb' 4 1 = b := by
  revert k b; cases c <;> decide

/-- A loop primitive is read back from its postbyte and offset (R91). -/
theorem loop_encode {k : BitVec 3} {f : Counter → BitVec 9 → Instr} (h : loopOfCode k = some f)
    (c : Counter) (rel : BitVec 9) (rest : List Byte) :
    decodeGeneral (encodeLoop k c rel ++ rest) = .ok (f c rel, rest) := by
  obtain ⟨h1, h2, h3, h4⟩ := loop_fields k (rel.extractLsb' 8 1) c
  refine (decodeGeneral_cons (p := loopRow) rfl _).trans ?_
  unfold loopRow
  refine (bind_of_ok (byte_cons _ _)).trans ?_
  rw [h1, h2, h3, h4, h]
  exact congrArg (fun v => Except.ok (f c v, rest)) (off9_value rel)

/-- A transfer or exchange is read back from its postbyte (R90). -/
theorem tfr_encode (r R : Reg) (rest : List Byte) :
    decodeGeneral (encodeTransfer 0 r R ++ rest) = .ok (.tfr r R, rest) := by
  cases r with
  | r8 r => cases r <;> cases R with | r8 R => cases R <;> rfl | r16 R => cases R <;> rfl
  | r16 r => cases r <;> cases R with | r8 R => cases R <;> rfl | r16 R => cases R <;> rfl

theorem exg_encode (r R : Reg) (h : r.sameWidth R = true) (rest : List Byte) :
    decodeGeneral (encodeTransfer 1 r R ++ rest) = .ok (.exg r R, rest) := by
  cases r with
  | r8 r =>
    cases R with
    | r8 R => cases r <;> cases R <;> rfl
    | r16 R => cases h
  | r16 r =>
    cases R with
    | r8 R => cases h
    | r16 R => cases r <;> cases R <;> rfl

theorem movb_encode (m : Mov 8) (h : m.inClass = true) (rest : List Byte) :
    decodeGeneral (encodeMovb m ++ rest) = .ok (.movb m, rest) := by
  cases m with
  | imId v x =>
    refine (decodeGeneral_page2 (p := movImId byte .movb) rfl _).trans ?_
    change movImId byte .movb (x.encode ++ [v] ++ rest) = _
    rw [List.append_assoc]
    exact bind_of_ok (idx_encode .short x h _)
  | exId a x =>
    refine (decodeGeneral_page2 (p := movExId .movb) rfl _).trans ?_
    change movExId .movb (x.encode ++ encodeWord a ++ rest) = _
    rw [List.append_assoc]
    exact (bind_of_ok (idx_encode .short x h _)).trans (bind_of_ok (word_encode a rest))
  | idId x y =>
    obtain ⟨hx, hy⟩ := Bool.and_eq_true_iff.mp h
    refine (decodeGeneral_page2 (p := movIdId .movb) rfl _).trans ?_
    change movIdId .movb (x.encode ++ y.encode ++ rest) = _
    rw [List.append_assoc]
    exact (bind_of_ok (idx_encode .short x hx _)).trans (bind_of_ok (idx_encode .short y hy rest))
  | imEx v a =>
    refine (decodeGeneral_page2 (p := movImEx byte .movb) rfl _).trans ?_
    change bind word (fun b => done (Instr.movb (.imEx v b))) (encodeWord a ++ rest) = _
    exact bind_of_ok (word_encode a rest)
  | exEx a b =>
    refine (decodeGeneral_page2 (p := movExEx .movb) rfl _).trans ?_
    change movExEx .movb (encodeWord a ++ encodeWord b ++ rest) = _
    rw [List.append_assoc]
    exact (bind_of_ok (word_encode a _)).trans (bind_of_ok (word_encode b rest))
  | idEx x a =>
    refine (decodeGeneral_page2 (p := movIdEx .movb) rfl _).trans ?_
    change movIdEx .movb (x.encode ++ encodeWord a ++ rest) = _
    rw [List.append_assoc]
    exact (bind_of_ok (idx_encode .short x h _)).trans (bind_of_ok (word_encode a rest))

theorem movw_encode (m : Mov 16) (h : m.inClass = true) (rest : List Byte) :
    decodeGeneral (encodeMovw m ++ rest) = .ok (.movw m, rest) := by
  cases m with
  | imId v x =>
    refine (decodeGeneral_page2 (p := movImId word .movw) rfl _).trans ?_
    change movImId word .movw (x.encode ++ encodeWord v ++ rest) = _
    rw [List.append_assoc]
    exact (bind_of_ok (idx_encode .short x h _)).trans (bind_of_ok (word_encode v rest))
  | exId a x =>
    refine (decodeGeneral_page2 (p := movExId .movw) rfl _).trans ?_
    change movExId .movw (x.encode ++ encodeWord a ++ rest) = _
    rw [List.append_assoc]
    exact (bind_of_ok (idx_encode .short x h _)).trans (bind_of_ok (word_encode a rest))
  | idId x y =>
    obtain ⟨hx, hy⟩ := Bool.and_eq_true_iff.mp h
    refine (decodeGeneral_page2 (p := movIdId .movw) rfl _).trans ?_
    change movIdId .movw (x.encode ++ y.encode ++ rest) = _
    rw [List.append_assoc]
    exact (bind_of_ok (idx_encode .short x hx _)).trans (bind_of_ok (idx_encode .short y hy rest))
  | imEx v a =>
    refine (decodeGeneral_page2 (p := movImEx word .movw) rfl _).trans ?_
    change movImEx word .movw (encodeWord v ++ encodeWord a ++ rest) = _
    rw [List.append_assoc]
    exact (bind_of_ok (word_encode v _)).trans (bind_of_ok (word_encode a rest))
  | exEx a b =>
    refine (decodeGeneral_page2 (p := movExEx .movw) rfl _).trans ?_
    change movExEx .movw (encodeWord a ++ encodeWord b ++ rest) = _
    rw [List.append_assoc]
    exact (bind_of_ok (word_encode a _)).trans (bind_of_ok (word_encode b rest))
  | idEx x a =>
    refine (decodeGeneral_page2 (p := movIdEx .movw) rfl _).trans ?_
    change movIdEx .movw (x.encode ++ encodeWord a ++ rest) = _
    rw [List.append_assoc]
    exact (bind_of_ok (idx_encode .short x h _)).trans (bind_of_ok (word_encode a rest))

/-! ### What a parser can have read -/

/-- Reading with `p` and then `q` succeeds exactly when both do. -/
theorem bind_eq_ok {α β : Type} {p : Parser α} {q : α → Parser β} {bs rest : List Byte} {b : β} :
    bind p q bs = .ok (b, rest) ↔ ∃ a mid, p bs = .ok (a, mid) ∧ q a mid = .ok (b, rest) := by
  unfold bind
  cases h : p bs with
  | error e => simp
  | ok r => obtain ⟨a, mid⟩ := r; simp

theorem done_eq_ok {α : Type} {a b : α} {bs rest : List Byte} :
    done a bs = .ok (b, rest) ↔ b = a ∧ rest = bs := by
  simp [done, eq_comm]

theorem byte_eq_ok {bs rest : List Byte} {b : Byte} : byte bs = .ok (b, rest) ↔ bs = b :: rest := by
  cases bs <;> simp [byte]

theorem word_eq_ok {bs rest : List Byte} {w : Word} :
    word bs = .ok (w, rest) ↔ bs = encodeWord w ++ rest := by
  constructor
  · intro h
    simp only [word, bind_eq_ok, byte_eq_ok, done_eq_ok] at h
    obtain ⟨hi, _, rfl, lo, _, rfl, rfl, rfl⟩ := h
    simp [encodeWord]
  · rintro rfl
    exact word_encode w rest

/-- A postbyte with bit 5 clear, in its fields (R82). -/
theorem off5_postbyte (xb : Byte) (h : xb.getLsbD 5 = false) :
    (idxBase (xb.extractLsb' 6 2)).code ++ 0#1 ++ xb.extractLsb' 0 5 = xb := by
  revert xb; decide

/-- A postbyte of an auto form, in its fields (R83). -/
theorem auto_postbyte (xb : Byte) (r : AutoBase) (h : xb.getLsbD 5 = true)
    (hr : autoBase (xb.extractLsb' 6 2) = some r) :
    r.code ++ 1#1 ++ BitVec.ofBool (xb.getLsbD 4) ++ xb.extractLsb' 0 4 = xb := by
  revert xb; cases r <;> decide

/-- A postbyte that starts with 111, in its fields (R84 to R87). -/
theorem idx111_postbyte (xb : Byte) (h : xb.getLsbD 5 = true)
    (hr : autoBase (xb.extractLsb' 6 2) = none) :
    0b111#3 ++ (idxBase (xb.extractLsb' 3 2)).code ++ xb.extractLsb' 0 3 = xb := by
  revert xb; decide

/-- The bytes from which the sub-forms with a postbyte 111rrkkk are read. -/
theorem idx111_eq_ok {rr : BitVec 2} {k : BitVec 3} {bs rest : List Byte} {x : Idx}
    (h : idx111 rr k bs = .ok (x, rest)) :
    (0b111#3 ++ (idxBase rr).code ++ k) :: bs = x.encode ++ rest := by
  have hk : k = 0 ∨ k = 1 ∨ k = 2 ∨ k = 3 ∨ k = 4 ∨ k = 5 ∨ k = 6 ∨ k = 7 := by
    clear h; revert k; decide
  have h9 : ∀ (b : BitVec 1) (ff : Byte), (b ++ ff).extractLsb' 8 1 = b ∧
      (b ++ ff).extractLsb' 0 8 = ff := by decide
  rcases hk with rfl | rfl | rfl | rfl | rfl | rfl | rfl | rfl
  · obtain ⟨ff, _, h1, h2⟩ := bind_eq_ok.mp h
    obtain ⟨rfl, rfl⟩ := done_eq_ok.mp h2
    rw [byte_eq_ok.mp h1]
    simp only [Idx.encode, h9]
    cases idxBase rr <;> rfl
  · obtain ⟨ff, _, h1, h2⟩ := bind_eq_ok.mp h
    obtain ⟨rfl, rfl⟩ := done_eq_ok.mp h2
    rw [byte_eq_ok.mp h1]
    simp only [Idx.encode, h9]
    cases idxBase rr <;> rfl
  · obtain ⟨w, _, h1, h2⟩ := bind_eq_ok.mp h
    obtain ⟨rfl, rfl⟩ := done_eq_ok.mp h2
    rw [word_eq_ok.mp h1]
    cases idxBase rr <;> rfl
  · obtain ⟨w, _, h1, h2⟩ := bind_eq_ok.mp h
    obtain ⟨rfl, rfl⟩ := done_eq_ok.mp h2
    rw [word_eq_ok.mp h1]
    cases idxBase rr <;> rfl
  all_goals
    obtain ⟨rfl, rfl⟩ := done_eq_ok.mp h
    cases idxBase rr <;> rfl

/-- The bytes from which an indexed operand is read are its own (R88). -/
theorem idxAny_eq_ok {bs rest : List Byte} {x : Idx} :
    idxAny bs = .ok (x, rest) ↔ bs = x.encode ++ rest := by
  constructor
  · intro h
    obtain ⟨xb, mid, h1, h2⟩ := bind_eq_ok.mp h
    rw [byte_eq_ok.mp h1]
    cases h5 : xb.getLsbD 5 with
    | false =>
      rw [if_pos h5] at h2
      obtain ⟨rfl, rfl⟩ := done_eq_ok.mp h2
      simp [Idx.encode, off5_postbyte xb h5]
    | true =>
      rw [if_neg (by rw [h5]; decide)] at h2
      cases hr : autoBase (xb.extractLsb' 6 2) with
      | some r =>
        rw [hr] at h2
        obtain ⟨rfl, rfl⟩ := done_eq_ok.mp h2
        exact congrArg (· :: rest) (auto_postbyte xb r h5 hr).symm
      | none =>
        rw [hr] at h2
        rw [← idx111_eq_ok h2, idx111_postbyte xb h5 hr]
  · rintro rfl
    exact idxAny_encode x rest

theorem idx_eq_ok {c : IdxClass} {bs rest : List Byte} {x : Idx} :
    idx c bs = .ok (x, rest) ↔ bs = x.encode ++ rest ∧ x.inClass c = true := by
  unfold idx
  simp only [bind_eq_ok, idxAny_eq_ok]
  constructor
  · rintro ⟨y, mid, rfl, h⟩
    split at h
    · next hc => obtain ⟨rfl, rfl⟩ := done_eq_ok.mp h; exact ⟨rfl, hc⟩
    · cases h
  · rintro ⟨rfl, hc⟩
    exact ⟨x, rest, rfl, by rw [if_pos hc]; rfl⟩

/-! ### What a parser has not read -/

/-- A parser whose answer, other than `truncated`, does not depend on bytes it has not read. -/
structure Stable {α : Type} (p : Parser α) : Prop where
  ok : ∀ bs more rest a, p bs = .ok (a, rest) → p (bs ++ more) = .ok (a, rest ++ more)
  error : ∀ bs more e, p bs = .error e → e ≠ .truncated → p (bs ++ more) = .error e

theorem stable_done {α : Type} (a : α) : Stable (done a) :=
  ⟨fun _ _ _ _ h => by cases h; rfl, fun _ _ _ h _ => nomatch h⟩

theorem stable_reject {α : Type} (e : DecodeError) : Stable (α := α) (reject e) :=
  ⟨fun _ _ _ _ h => (nomatch h), fun _ _ _ h _ => h⟩

theorem stable_byte : Stable byte := by
  refine ⟨fun bs more rest b h => ?_, fun bs more e h he => ?_⟩
  · rw [byte_eq_ok.mp h]; rfl
  · cases bs with
    | nil => cases h; exact absurd rfl he
    | cons b rest => cases h

theorem stable_bind {α β : Type} {p : Parser α} {q : α → Parser β} (hp : Stable p)
    (hq : ∀ a, Stable (q a)) : Stable (bind p q) := by
  refine ⟨fun bs more rest b h => ?_, fun bs more e h he => ?_⟩
  · obtain ⟨a, mid, h1, h2⟩ := bind_eq_ok.mp h
    exact bind_eq_ok.mpr ⟨a, _, hp.ok _ more _ _ h1, (hq a).ok _ more _ _ h2⟩
  · unfold bind at h ⊢
    cases h1 : p bs with
    | error e1 =>
      rw [h1] at h
      cases h
      rw [hp.error _ more _ h1 he]
    | ok r =>
      obtain ⟨a, mid⟩ := r
      rw [h1] at h
      rw [hp.ok _ more _ _ h1]
      exact (hq a).error _ more _ h he

theorem stable_word : Stable word :=
  stable_bind stable_byte fun _ => stable_bind stable_byte fun _ => stable_done _

theorem stable_idx111 (rr : BitVec 2) (k : BitVec 3) : Stable (idx111 rr k) := by
  unfold idx111
  split <;> first
    | exact stable_bind stable_byte fun _ => stable_done _
    | exact stable_bind stable_word fun _ => stable_done _
    | exact stable_done _

theorem stable_idx (c : IdxClass) : Stable (idx c) := by
  refine stable_bind (stable_bind stable_byte fun xb => ?_) fun x => ?_
  · split
    · exact stable_done _
    · split
      · exact stable_done _
      · exact stable_idx111 _ _
  · split
    · exact stable_done _
    · exact stable_reject _

theorem stable_transferRow : Stable transferRow := by
  refine stable_bind stable_byte fun eb => ?_
  split
  · split
    · exact stable_done _
    · split
      · exact stable_done _
      · exact stable_reject _
  · exact stable_reject _

theorem stable_loopRow : Stable loopRow := by
  refine stable_bind stable_byte fun lb => ?_
  split
  · exact stable_bind stable_byte fun _ => stable_done _
  · exact stable_reject _

theorem stable_page2Map : ∀ row ∈ page2Map, ∀ p ∈ row, Stable p := by
  simp only [page2Map, List.forall_mem_cons]
  refine ⟨?_, ?_, ?_⟩
  all_goals
    repeat' refine And.intro ?_ ?_
  all_goals first
    | exact fun _ h => absurd h List.not_mem_nil
    | exact stable_done _
    | exact stable_reject _
    | exact stable_bind stable_word fun _ => stable_done _
    | exact stable_bind stable_word fun _ => stable_bind stable_word fun _ => stable_done _
    | exact stable_bind stable_byte fun _ => stable_bind stable_word fun _ => stable_done _
    | exact stable_bind (stable_idx _) fun _ => stable_bind stable_word fun _ => stable_done _
    | exact stable_bind (stable_idx _) fun _ => stable_bind stable_byte fun _ => stable_done _
    | exact stable_bind (stable_idx _) fun _ => stable_bind (stable_idx _) fun _ => stable_done _

theorem stable_page2 (op : Byte) : Stable (page2 op) := by
  unfold page2
  split
  · next row hr =>
    split
    · next p hp => exact stable_page2Map row (List.mem_of_getElem? hr) p (List.mem_of_getElem? hp)
    · exact stable_reject _
  · split
    · split <;> exact stable_reject _
    · exact stable_reject _

theorem stable_page1Map : ∀ row ∈ page1Map, ∀ p ∈ row, Stable p := by
  simp only [page1Map, List.forall_mem_cons]
  repeat' refine And.intro ?_ ?_
  all_goals first
    | exact fun _ h => absurd h List.not_mem_nil
    | exact stable_done _
    | exact stable_reject _
    | exact stable_bind stable_byte fun _ => stable_done _
    | exact stable_bind stable_word fun _ => stable_done _
    | exact stable_bind (stable_idx _) fun _ => stable_done _
    | exact stable_bind stable_byte fun _ => stable_bind stable_byte fun _ => stable_done _
    | exact stable_bind stable_word fun _ => stable_bind stable_byte fun _ => stable_done _
    | exact stable_bind (stable_idx _) fun _ => stable_bind stable_byte fun _ => stable_done _
    | exact stable_bind stable_byte fun _ => stable_bind stable_byte fun _ =>
        stable_bind stable_byte fun _ => stable_done _
    | exact stable_bind stable_word fun _ => stable_bind stable_byte fun _ =>
        stable_bind stable_byte fun _ => stable_done _
    | exact stable_bind (stable_idx _) fun _ => stable_bind stable_byte fun _ =>
        stable_bind stable_byte fun _ => stable_done _
    | exact stable_transferRow
    | exact stable_loopRow
    | exact stable_bind stable_byte stable_page2

theorem stable_page1 (op : Byte) : Stable (page1 op) := by
  unfold page1
  split
  · next row hr =>
    split
    · next p hp => exact stable_page1Map row (List.mem_of_getElem? hr) p (List.mem_of_getElem? hp)
    · exact stable_reject _
  · exact stable_reject _

/-- What `decode` answers does not change when bytes are added behind those it has read. -/
theorem stable_decode : Stable decode :=
  stable_bind (stable_bind stable_byte stable_page1) fun _ => stable_done _

end Row

end Sys2Proof
end

