-- ==== Sys2Proof/Laws/State.lean ====
section
/-! SUPPORT. One lemma for each field of the state and each update, and the bits of CCR after each
update: later proofs rewrite with these and unfold no record update. -/

namespace Sys2Proof.Machine

/-! ### setA -/

@[simp] theorem State.setA_a (s : State) (v : Byte) : (s.setA v).a = v := rfl
@[simp] theorem State.setA_b (s : State) (v : Byte) : (s.setA v).b = s.b := rfl
@[simp] theorem State.setA_x (s : State) (v : Byte) : (s.setA v).x = s.x := rfl
@[simp] theorem State.setA_y (s : State) (v : Byte) : (s.setA v).y = s.y := rfl
@[simp] theorem State.setA_sp (s : State) (v : Byte) : (s.setA v).sp = s.sp := rfl
@[simp] theorem State.setA_pc (s : State) (v : Byte) : (s.setA v).pc = s.pc := rfl
@[simp] theorem State.setA_ccr (s : State) (v : Byte) : (s.setA v).ccr = s.ccr := rfl
@[simp] theorem State.setA_mem (s : State) (v : Byte) : (s.setA v).mem = s.mem := rfl
@[simp] theorem State.setA_draws (s : State) (v : Byte) : (s.setA v).draws = s.draws := rfl
@[simp] theorem State.setA_launch (s : State) (v : Byte) : (s.setA v).launch = s.launch := rfl
@[simp] theorem State.setA_flagS (s : State) (v : Byte) : (s.setA v).flagS = s.flagS := rfl
@[simp] theorem State.setA_flagX (s : State) (v : Byte) : (s.setA v).flagX = s.flagX := rfl
@[simp] theorem State.setA_flagH (s : State) (v : Byte) : (s.setA v).flagH = s.flagH := rfl
@[simp] theorem State.setA_flagI (s : State) (v : Byte) : (s.setA v).flagI = s.flagI := rfl
@[simp] theorem State.setA_flagN (s : State) (v : Byte) : (s.setA v).flagN = s.flagN := rfl
@[simp] theorem State.setA_flagZ (s : State) (v : Byte) : (s.setA v).flagZ = s.flagZ := rfl
@[simp] theorem State.setA_flagV (s : State) (v : Byte) : (s.setA v).flagV = s.flagV := rfl
@[simp] theorem State.setA_flagC (s : State) (v : Byte) : (s.setA v).flagC = s.flagC := rfl

/-! ### setB -/

@[simp] theorem State.setB_a (s : State) (v : Byte) : (s.setB v).a = s.a := rfl
@[simp] theorem State.setB_b (s : State) (v : Byte) : (s.setB v).b = v := rfl
@[simp] theorem State.setB_x (s : State) (v : Byte) : (s.setB v).x = s.x := rfl
@[simp] theorem State.setB_y (s : State) (v : Byte) : (s.setB v).y = s.y := rfl
@[simp] theorem State.setB_sp (s : State) (v : Byte) : (s.setB v).sp = s.sp := rfl
@[simp] theorem State.setB_pc (s : State) (v : Byte) : (s.setB v).pc = s.pc := rfl
@[simp] theorem State.setB_ccr (s : State) (v : Byte) : (s.setB v).ccr = s.ccr := rfl
@[simp] theorem State.setB_mem (s : State) (v : Byte) : (s.setB v).mem = s.mem := rfl
@[simp] theorem State.setB_draws (s : State) (v : Byte) : (s.setB v).draws = s.draws := rfl
@[simp] theorem State.setB_launch (s : State) (v : Byte) : (s.setB v).launch = s.launch := rfl
@[simp] theorem State.setB_flagS (s : State) (v : Byte) : (s.setB v).flagS = s.flagS := rfl
@[simp] theorem State.setB_flagX (s : State) (v : Byte) : (s.setB v).flagX = s.flagX := rfl
@[simp] theorem State.setB_flagH (s : State) (v : Byte) : (s.setB v).flagH = s.flagH := rfl
@[simp] theorem State.setB_flagI (s : State) (v : Byte) : (s.setB v).flagI = s.flagI := rfl
@[simp] theorem State.setB_flagN (s : State) (v : Byte) : (s.setB v).flagN = s.flagN := rfl
@[simp] theorem State.setB_flagZ (s : State) (v : Byte) : (s.setB v).flagZ = s.flagZ := rfl
@[simp] theorem State.setB_flagV (s : State) (v : Byte) : (s.setB v).flagV = s.flagV := rfl
@[simp] theorem State.setB_flagC (s : State) (v : Byte) : (s.setB v).flagC = s.flagC := rfl

/-! ### setD -/

@[simp] theorem State.setD_a (s : State) (v : Word) : (s.setD v).a = hiByte v := rfl
@[simp] theorem State.setD_b (s : State) (v : Word) : (s.setD v).b = loByte v := rfl
@[simp] theorem State.setD_x (s : State) (v : Word) : (s.setD v).x = s.x := rfl
@[simp] theorem State.setD_y (s : State) (v : Word) : (s.setD v).y = s.y := rfl
@[simp] theorem State.setD_sp (s : State) (v : Word) : (s.setD v).sp = s.sp := rfl
@[simp] theorem State.setD_pc (s : State) (v : Word) : (s.setD v).pc = s.pc := rfl
@[simp] theorem State.setD_ccr (s : State) (v : Word) : (s.setD v).ccr = s.ccr := rfl
@[simp] theorem State.setD_mem (s : State) (v : Word) : (s.setD v).mem = s.mem := rfl
@[simp] theorem State.setD_draws (s : State) (v : Word) : (s.setD v).draws = s.draws := rfl
@[simp] theorem State.setD_launch (s : State) (v : Word) : (s.setD v).launch = s.launch := rfl
@[simp] theorem State.setD_flagS (s : State) (v : Word) : (s.setD v).flagS = s.flagS := rfl
@[simp] theorem State.setD_flagX (s : State) (v : Word) : (s.setD v).flagX = s.flagX := rfl
@[simp] theorem State.setD_flagH (s : State) (v : Word) : (s.setD v).flagH = s.flagH := rfl
@[simp] theorem State.setD_flagI (s : State) (v : Word) : (s.setD v).flagI = s.flagI := rfl
@[simp] theorem State.setD_flagN (s : State) (v : Word) : (s.setD v).flagN = s.flagN := rfl
@[simp] theorem State.setD_flagZ (s : State) (v : Word) : (s.setD v).flagZ = s.flagZ := rfl
@[simp] theorem State.setD_flagV (s : State) (v : Word) : (s.setD v).flagV = s.flagV := rfl
@[simp] theorem State.setD_flagC (s : State) (v : Word) : (s.setD v).flagC = s.flagC := rfl

/-! ### setX -/

@[simp] theorem State.setX_a (s : State) (v : Word) : (s.setX v).a = s.a := rfl
@[simp] theorem State.setX_b (s : State) (v : Word) : (s.setX v).b = s.b := rfl
@[simp] theorem State.setX_x (s : State) (v : Word) : (s.setX v).x = v := rfl
@[simp] theorem State.setX_y (s : State) (v : Word) : (s.setX v).y = s.y := rfl
@[simp] theorem State.setX_sp (s : State) (v : Word) : (s.setX v).sp = s.sp := rfl
@[simp] theorem State.setX_pc (s : State) (v : Word) : (s.setX v).pc = s.pc := rfl
@[simp] theorem State.setX_ccr (s : State) (v : Word) : (s.setX v).ccr = s.ccr := rfl
@[simp] theorem State.setX_mem (s : State) (v : Word) : (s.setX v).mem = s.mem := rfl
@[simp] theorem State.setX_draws (s : State) (v : Word) : (s.setX v).draws = s.draws := rfl
@[simp] theorem State.setX_launch (s : State) (v : Word) : (s.setX v).launch = s.launch := rfl
@[simp] theorem State.setX_flagS (s : State) (v : Word) : (s.setX v).flagS = s.flagS := rfl
@[simp] theorem State.setX_flagX (s : State) (v : Word) : (s.setX v).flagX = s.flagX := rfl
@[simp] theorem State.setX_flagH (s : State) (v : Word) : (s.setX v).flagH = s.flagH := rfl
@[simp] theorem State.setX_flagI (s : State) (v : Word) : (s.setX v).flagI = s.flagI := rfl
@[simp] theorem State.setX_flagN (s : State) (v : Word) : (s.setX v).flagN = s.flagN := rfl
@[simp] theorem State.setX_flagZ (s : State) (v : Word) : (s.setX v).flagZ = s.flagZ := rfl
@[simp] theorem State.setX_flagV (s : State) (v : Word) : (s.setX v).flagV = s.flagV := rfl
@[simp] theorem State.setX_flagC (s : State) (v : Word) : (s.setX v).flagC = s.flagC := rfl
@[simp] theorem State.setX_d (s : State) (v : Word) : (s.setX v).d = s.d := rfl

/-! ### setY -/

@[simp] theorem State.setY_a (s : State) (v : Word) : (s.setY v).a = s.a := rfl
@[simp] theorem State.setY_b (s : State) (v : Word) : (s.setY v).b = s.b := rfl
@[simp] theorem State.setY_x (s : State) (v : Word) : (s.setY v).x = s.x := rfl
@[simp] theorem State.setY_y (s : State) (v : Word) : (s.setY v).y = v := rfl
@[simp] theorem State.setY_sp (s : State) (v : Word) : (s.setY v).sp = s.sp := rfl
@[simp] theorem State.setY_pc (s : State) (v : Word) : (s.setY v).pc = s.pc := rfl
@[simp] theorem State.setY_ccr (s : State) (v : Word) : (s.setY v).ccr = s.ccr := rfl
@[simp] theorem State.setY_mem (s : State) (v : Word) : (s.setY v).mem = s.mem := rfl
@[simp] theorem State.setY_draws (s : State) (v : Word) : (s.setY v).draws = s.draws := rfl
@[simp] theorem State.setY_launch (s : State) (v : Word) : (s.setY v).launch = s.launch := rfl
@[simp] theorem State.setY_flagS (s : State) (v : Word) : (s.setY v).flagS = s.flagS := rfl
@[simp] theorem State.setY_flagX (s : State) (v : Word) : (s.setY v).flagX = s.flagX := rfl
@[simp] theorem State.setY_flagH (s : State) (v : Word) : (s.setY v).flagH = s.flagH := rfl
@[simp] theorem State.setY_flagI (s : State) (v : Word) : (s.setY v).flagI = s.flagI := rfl
@[simp] theorem State.setY_flagN (s : State) (v : Word) : (s.setY v).flagN = s.flagN := rfl
@[simp] theorem State.setY_flagZ (s : State) (v : Word) : (s.setY v).flagZ = s.flagZ := rfl
@[simp] theorem State.setY_flagV (s : State) (v : Word) : (s.setY v).flagV = s.flagV := rfl
@[simp] theorem State.setY_flagC (s : State) (v : Word) : (s.setY v).flagC = s.flagC := rfl
@[simp] theorem State.setY_d (s : State) (v : Word) : (s.setY v).d = s.d := rfl

/-! ### setSp -/

@[simp] theorem State.setSp_a (s : State) (v : Word) : (s.setSp v).a = s.a := rfl
@[simp] theorem State.setSp_b (s : State) (v : Word) : (s.setSp v).b = s.b := rfl
@[simp] theorem State.setSp_x (s : State) (v : Word) : (s.setSp v).x = s.x := rfl
@[simp] theorem State.setSp_y (s : State) (v : Word) : (s.setSp v).y = s.y := rfl
@[simp] theorem State.setSp_sp (s : State) (v : Word) : (s.setSp v).sp = v := rfl
@[simp] theorem State.setSp_pc (s : State) (v : Word) : (s.setSp v).pc = s.pc := rfl
@[simp] theorem State.setSp_ccr (s : State) (v : Word) : (s.setSp v).ccr = s.ccr := rfl
@[simp] theorem State.setSp_mem (s : State) (v : Word) : (s.setSp v).mem = s.mem := rfl
@[simp] theorem State.setSp_draws (s : State) (v : Word) : (s.setSp v).draws = s.draws := rfl
@[simp] theorem State.setSp_launch (s : State) (v : Word) : (s.setSp v).launch = s.launch := rfl
@[simp] theorem State.setSp_flagS (s : State) (v : Word) : (s.setSp v).flagS = s.flagS := rfl
@[simp] theorem State.setSp_flagX (s : State) (v : Word) : (s.setSp v).flagX = s.flagX := rfl
@[simp] theorem State.setSp_flagH (s : State) (v : Word) : (s.setSp v).flagH = s.flagH := rfl
@[simp] theorem State.setSp_flagI (s : State) (v : Word) : (s.setSp v).flagI = s.flagI := rfl
@[simp] theorem State.setSp_flagN (s : State) (v : Word) : (s.setSp v).flagN = s.flagN := rfl
@[simp] theorem State.setSp_flagZ (s : State) (v : Word) : (s.setSp v).flagZ = s.flagZ := rfl
@[simp] theorem State.setSp_flagV (s : State) (v : Word) : (s.setSp v).flagV = s.flagV := rfl
@[simp] theorem State.setSp_flagC (s : State) (v : Word) : (s.setSp v).flagC = s.flagC := rfl
@[simp] theorem State.setSp_d (s : State) (v : Word) : (s.setSp v).d = s.d := rfl

/-! ### setPc -/

@[simp] theorem State.setPc_a (s : State) (v : Word) : (s.setPc v).a = s.a := rfl
@[simp] theorem State.setPc_b (s : State) (v : Word) : (s.setPc v).b = s.b := rfl
@[simp] theorem State.setPc_x (s : State) (v : Word) : (s.setPc v).x = s.x := rfl
@[simp] theorem State.setPc_y (s : State) (v : Word) : (s.setPc v).y = s.y := rfl
@[simp] theorem State.setPc_sp (s : State) (v : Word) : (s.setPc v).sp = s.sp := rfl
@[simp] theorem State.setPc_pc (s : State) (v : Word) : (s.setPc v).pc = v := rfl
@[simp] theorem State.setPc_ccr (s : State) (v : Word) : (s.setPc v).ccr = s.ccr := rfl
@[simp] theorem State.setPc_mem (s : State) (v : Word) : (s.setPc v).mem = s.mem := rfl
@[simp] theorem State.setPc_draws (s : State) (v : Word) : (s.setPc v).draws = s.draws := rfl
@[simp] theorem State.setPc_launch (s : State) (v : Word) : (s.setPc v).launch = s.launch := rfl
@[simp] theorem State.setPc_flagS (s : State) (v : Word) : (s.setPc v).flagS = s.flagS := rfl
@[simp] theorem State.setPc_flagX (s : State) (v : Word) : (s.setPc v).flagX = s.flagX := rfl
@[simp] theorem State.setPc_flagH (s : State) (v : Word) : (s.setPc v).flagH = s.flagH := rfl
@[simp] theorem State.setPc_flagI (s : State) (v : Word) : (s.setPc v).flagI = s.flagI := rfl
@[simp] theorem State.setPc_flagN (s : State) (v : Word) : (s.setPc v).flagN = s.flagN := rfl
@[simp] theorem State.setPc_flagZ (s : State) (v : Word) : (s.setPc v).flagZ = s.flagZ := rfl
@[simp] theorem State.setPc_flagV (s : State) (v : Word) : (s.setPc v).flagV = s.flagV := rfl
@[simp] theorem State.setPc_flagC (s : State) (v : Word) : (s.setPc v).flagC = s.flagC := rfl
@[simp] theorem State.setPc_d (s : State) (v : Word) : (s.setPc v).d = s.d := rfl

/-! ### setMem -/

@[simp] theorem State.setMem_a (s : State) (m : List Host.Cell) : (s.setMem m).a = s.a := rfl
@[simp] theorem State.setMem_b (s : State) (m : List Host.Cell) : (s.setMem m).b = s.b := rfl
@[simp] theorem State.setMem_x (s : State) (m : List Host.Cell) : (s.setMem m).x = s.x := rfl
@[simp] theorem State.setMem_y (s : State) (m : List Host.Cell) : (s.setMem m).y = s.y := rfl
@[simp] theorem State.setMem_sp (s : State) (m : List Host.Cell) : (s.setMem m).sp = s.sp := rfl
@[simp] theorem State.setMem_pc (s : State) (m : List Host.Cell) : (s.setMem m).pc = s.pc := rfl
@[simp] theorem State.setMem_ccr (s : State) (m : List Host.Cell) : (s.setMem m).ccr = s.ccr := rfl
@[simp] theorem State.setMem_mem (s : State) (m : List Host.Cell) : (s.setMem m).mem = m := rfl
@[simp] theorem State.setMem_draws (s : State) (m : List Host.Cell) : (s.setMem m).draws = s.draws := rfl
@[simp] theorem State.setMem_launch (s : State) (m : List Host.Cell) : (s.setMem m).launch = s.launch := rfl
@[simp] theorem State.setMem_flagS (s : State) (m : List Host.Cell) : (s.setMem m).flagS = s.flagS := rfl
@[simp] theorem State.setMem_flagX (s : State) (m : List Host.Cell) : (s.setMem m).flagX = s.flagX := rfl
@[simp] theorem State.setMem_flagH (s : State) (m : List Host.Cell) : (s.setMem m).flagH = s.flagH := rfl
@[simp] theorem State.setMem_flagI (s : State) (m : List Host.Cell) : (s.setMem m).flagI = s.flagI := rfl
@[simp] theorem State.setMem_flagN (s : State) (m : List Host.Cell) : (s.setMem m).flagN = s.flagN := rfl
@[simp] theorem State.setMem_flagZ (s : State) (m : List Host.Cell) : (s.setMem m).flagZ = s.flagZ := rfl
@[simp] theorem State.setMem_flagV (s : State) (m : List Host.Cell) : (s.setMem m).flagV = s.flagV := rfl
@[simp] theorem State.setMem_flagC (s : State) (m : List Host.Cell) : (s.setMem m).flagC = s.flagC := rfl
@[simp] theorem State.setMem_d (s : State) (m : List Host.Cell) : (s.setMem m).d = s.d := rfl

/-! ### setDraws -/

@[simp] theorem State.setDraws_a (s : State) (n : Nat) : (s.setDraws n).a = s.a := rfl
@[simp] theorem State.setDraws_b (s : State) (n : Nat) : (s.setDraws n).b = s.b := rfl
@[simp] theorem State.setDraws_x (s : State) (n : Nat) : (s.setDraws n).x = s.x := rfl
@[simp] theorem State.setDraws_y (s : State) (n : Nat) : (s.setDraws n).y = s.y := rfl
@[simp] theorem State.setDraws_sp (s : State) (n : Nat) : (s.setDraws n).sp = s.sp := rfl
@[simp] theorem State.setDraws_pc (s : State) (n : Nat) : (s.setDraws n).pc = s.pc := rfl
@[simp] theorem State.setDraws_ccr (s : State) (n : Nat) : (s.setDraws n).ccr = s.ccr := rfl
@[simp] theorem State.setDraws_mem (s : State) (n : Nat) : (s.setDraws n).mem = s.mem := rfl
@[simp] theorem State.setDraws_draws (s : State) (n : Nat) : (s.setDraws n).draws = n := rfl
@[simp] theorem State.setDraws_launch (s : State) (n : Nat) : (s.setDraws n).launch = s.launch := rfl
@[simp] theorem State.setDraws_flagS (s : State) (n : Nat) : (s.setDraws n).flagS = s.flagS := rfl
@[simp] theorem State.setDraws_flagX (s : State) (n : Nat) : (s.setDraws n).flagX = s.flagX := rfl
@[simp] theorem State.setDraws_flagH (s : State) (n : Nat) : (s.setDraws n).flagH = s.flagH := rfl
@[simp] theorem State.setDraws_flagI (s : State) (n : Nat) : (s.setDraws n).flagI = s.flagI := rfl
@[simp] theorem State.setDraws_flagN (s : State) (n : Nat) : (s.setDraws n).flagN = s.flagN := rfl
@[simp] theorem State.setDraws_flagZ (s : State) (n : Nat) : (s.setDraws n).flagZ = s.flagZ := rfl
@[simp] theorem State.setDraws_flagV (s : State) (n : Nat) : (s.setDraws n).flagV = s.flagV := rfl
@[simp] theorem State.setDraws_flagC (s : State) (n : Nat) : (s.setDraws n).flagC = s.flagC := rfl
@[simp] theorem State.setDraws_d (s : State) (n : Nat) : (s.setDraws n).d = s.d := rfl

/-! ### setCcr -/

@[simp] theorem State.setCcr_a (s : State) (v : Byte) : (s.setCcr v).a = s.a := rfl
@[simp] theorem State.setCcr_b (s : State) (v : Byte) : (s.setCcr v).b = s.b := rfl
@[simp] theorem State.setCcr_x (s : State) (v : Byte) : (s.setCcr v).x = s.x := rfl
@[simp] theorem State.setCcr_y (s : State) (v : Byte) : (s.setCcr v).y = s.y := rfl
@[simp] theorem State.setCcr_sp (s : State) (v : Byte) : (s.setCcr v).sp = s.sp := rfl
@[simp] theorem State.setCcr_pc (s : State) (v : Byte) : (s.setCcr v).pc = s.pc := rfl
@[simp] theorem State.setCcr_ccr (s : State) (v : Byte) : (s.setCcr v).ccr = v := rfl
@[simp] theorem State.setCcr_mem (s : State) (v : Byte) : (s.setCcr v).mem = s.mem := rfl
@[simp] theorem State.setCcr_draws (s : State) (v : Byte) : (s.setCcr v).draws = s.draws := rfl
@[simp] theorem State.setCcr_launch (s : State) (v : Byte) : (s.setCcr v).launch = s.launch := rfl
@[simp] theorem State.setCcr_d (s : State) (v : Byte) : (s.setCcr v).d = s.d := rfl

/-! ### advance -/

@[simp] theorem State.advance_a (s : State) (n : Nat) : (s.advance n).a = s.a := rfl
@[simp] theorem State.advance_b (s : State) (n : Nat) : (s.advance n).b = s.b := rfl
@[simp] theorem State.advance_x (s : State) (n : Nat) : (s.advance n).x = s.x := rfl
@[simp] theorem State.advance_y (s : State) (n : Nat) : (s.advance n).y = s.y := rfl
@[simp] theorem State.advance_sp (s : State) (n : Nat) : (s.advance n).sp = s.sp := rfl
@[simp] theorem State.advance_pc (s : State) (n : Nat) : (s.advance n).pc = s.pc + BitVec.ofNat 16 n := rfl
@[simp] theorem State.advance_ccr (s : State) (n : Nat) : (s.advance n).ccr = s.ccr := rfl
@[simp] theorem State.advance_mem (s : State) (n : Nat) : (s.advance n).mem = s.mem := rfl
@[simp] theorem State.advance_draws (s : State) (n : Nat) : (s.advance n).draws = s.draws := rfl
@[simp] theorem State.advance_launch (s : State) (n : Nat) : (s.advance n).launch = s.launch := rfl
@[simp] theorem State.advance_flagS (s : State) (n : Nat) : (s.advance n).flagS = s.flagS := rfl
@[simp] theorem State.advance_flagX (s : State) (n : Nat) : (s.advance n).flagX = s.flagX := rfl
@[simp] theorem State.advance_flagH (s : State) (n : Nat) : (s.advance n).flagH = s.flagH := rfl
@[simp] theorem State.advance_flagI (s : State) (n : Nat) : (s.advance n).flagI = s.flagI := rfl
@[simp] theorem State.advance_flagN (s : State) (n : Nat) : (s.advance n).flagN = s.flagN := rfl
@[simp] theorem State.advance_flagZ (s : State) (n : Nat) : (s.advance n).flagZ = s.flagZ := rfl
@[simp] theorem State.advance_flagV (s : State) (n : Nat) : (s.advance n).flagV = s.flagV := rfl
@[simp] theorem State.advance_flagC (s : State) (n : Nat) : (s.advance n).flagC = s.flagC := rfl
@[simp] theorem State.advance_d (s : State) (n : Nat) : (s.advance n).d = s.d := rfl

/-! ### setYD -/

@[simp] theorem State.setYD_a (s : State) (p : BitVec 32) : (s.setYD p).a = hiByte (p.extractLsb' 0 16) := rfl
@[simp] theorem State.setYD_b (s : State) (p : BitVec 32) : (s.setYD p).b = loByte (p.extractLsb' 0 16) := rfl
@[simp] theorem State.setYD_x (s : State) (p : BitVec 32) : (s.setYD p).x = s.x := rfl
@[simp] theorem State.setYD_y (s : State) (p : BitVec 32) : (s.setYD p).y = p.extractLsb' 16 16 := rfl
@[simp] theorem State.setYD_sp (s : State) (p : BitVec 32) : (s.setYD p).sp = s.sp := rfl
@[simp] theorem State.setYD_pc (s : State) (p : BitVec 32) : (s.setYD p).pc = s.pc := rfl
@[simp] theorem State.setYD_ccr (s : State) (p : BitVec 32) : (s.setYD p).ccr = s.ccr := rfl
@[simp] theorem State.setYD_mem (s : State) (p : BitVec 32) : (s.setYD p).mem = s.mem := rfl
@[simp] theorem State.setYD_draws (s : State) (p : BitVec 32) : (s.setYD p).draws = s.draws := rfl
@[simp] theorem State.setYD_launch (s : State) (p : BitVec 32) : (s.setYD p).launch = s.launch := rfl
@[simp] theorem State.setYD_flagS (s : State) (p : BitVec 32) : (s.setYD p).flagS = s.flagS := rfl
@[simp] theorem State.setYD_flagX (s : State) (p : BitVec 32) : (s.setYD p).flagX = s.flagX := rfl
@[simp] theorem State.setYD_flagH (s : State) (p : BitVec 32) : (s.setYD p).flagH = s.flagH := rfl
@[simp] theorem State.setYD_flagI (s : State) (p : BitVec 32) : (s.setYD p).flagI = s.flagI := rfl
@[simp] theorem State.setYD_flagN (s : State) (p : BitVec 32) : (s.setYD p).flagN = s.flagN := rfl
@[simp] theorem State.setYD_flagZ (s : State) (p : BitVec 32) : (s.setYD p).flagZ = s.flagZ := rfl
@[simp] theorem State.setYD_flagV (s : State) (p : BitVec 32) : (s.setYD p).flagV = s.flagV := rfl
@[simp] theorem State.setYD_flagC (s : State) (p : BitVec 32) : (s.setYD p).flagC = s.flagC := rfl

/-! ### writeCcr -/

@[simp] theorem State.writeCcr_a (s : State) (v : Byte) : (s.writeCcr v).a = s.a := rfl
@[simp] theorem State.writeCcr_b (s : State) (v : Byte) : (s.writeCcr v).b = s.b := rfl
@[simp] theorem State.writeCcr_x (s : State) (v : Byte) : (s.writeCcr v).x = s.x := rfl
@[simp] theorem State.writeCcr_y (s : State) (v : Byte) : (s.writeCcr v).y = s.y := rfl
@[simp] theorem State.writeCcr_sp (s : State) (v : Byte) : (s.writeCcr v).sp = s.sp := rfl
@[simp] theorem State.writeCcr_pc (s : State) (v : Byte) : (s.writeCcr v).pc = s.pc := rfl
@[simp] theorem State.writeCcr_mem (s : State) (v : Byte) : (s.writeCcr v).mem = s.mem := rfl
@[simp] theorem State.writeCcr_draws (s : State) (v : Byte) : (s.writeCcr v).draws = s.draws := rfl
@[simp] theorem State.writeCcr_launch (s : State) (v : Byte) : (s.writeCcr v).launch = s.launch := rfl
theorem State.writeCcr_ccr (s : State) (v : Byte) : (s.writeCcr v).ccr =
    (v &&& 0b10111111#8) ||| (s.ccr &&& v &&& 0b01000000#8) := rfl
@[simp] theorem State.writeCcr_d (s : State) (v : Byte) : (s.writeCcr v).d = s.d := rfl

/-! ### setFlags -/

@[simp] theorem State.setFlags_a (s : State) (u : FlagUpdate) : (s.setFlags u).a = s.a := rfl
@[simp] theorem State.setFlags_b (s : State) (u : FlagUpdate) : (s.setFlags u).b = s.b := rfl
@[simp] theorem State.setFlags_x (s : State) (u : FlagUpdate) : (s.setFlags u).x = s.x := rfl
@[simp] theorem State.setFlags_y (s : State) (u : FlagUpdate) : (s.setFlags u).y = s.y := rfl
@[simp] theorem State.setFlags_sp (s : State) (u : FlagUpdate) : (s.setFlags u).sp = s.sp := rfl
@[simp] theorem State.setFlags_pc (s : State) (u : FlagUpdate) : (s.setFlags u).pc = s.pc := rfl
@[simp] theorem State.setFlags_mem (s : State) (u : FlagUpdate) : (s.setFlags u).mem = s.mem := rfl
@[simp] theorem State.setFlags_draws (s : State) (u : FlagUpdate) : (s.setFlags u).draws = s.draws := rfl
@[simp] theorem State.setFlags_launch (s : State) (u : FlagUpdate) : (s.setFlags u).launch = s.launch := rfl
theorem State.setFlags_ccr (s : State) (u : FlagUpdate) : (s.setFlags u).ccr =
    packCcr s.flagS s.flagX (u.h.getD s.flagH) (u.i.getD s.flagI) (u.n.getD s.flagN)
      (u.z.getD s.flagZ) (u.v.getD s.flagV) (u.c.getD s.flagC) := rfl
@[simp] theorem State.setFlags_d (s : State) (u : FlagUpdate) : (s.setFlags u).d = s.d := rfl

/-! ### drawBit -/

@[simp] theorem State.drawBit_a (s : State) : (s.drawBit.2).a = s.a := rfl
@[simp] theorem State.drawBit_b (s : State) : (s.drawBit.2).b = s.b := rfl
@[simp] theorem State.drawBit_x (s : State) : (s.drawBit.2).x = s.x := rfl
@[simp] theorem State.drawBit_y (s : State) : (s.drawBit.2).y = s.y := rfl
@[simp] theorem State.drawBit_sp (s : State) : (s.drawBit.2).sp = s.sp := rfl
@[simp] theorem State.drawBit_pc (s : State) : (s.drawBit.2).pc = s.pc := rfl
@[simp] theorem State.drawBit_ccr (s : State) : (s.drawBit.2).ccr = s.ccr := rfl
@[simp] theorem State.drawBit_mem (s : State) : (s.drawBit.2).mem = s.mem := rfl
@[simp] theorem State.drawBit_draws (s : State) : (s.drawBit.2).draws = s.draws + 1 := rfl
@[simp] theorem State.drawBit_launch (s : State) : (s.drawBit.2).launch = s.launch := rfl
@[simp] theorem State.drawBit_flagS (s : State) : (s.drawBit.2).flagS = s.flagS := rfl
@[simp] theorem State.drawBit_flagX (s : State) : (s.drawBit.2).flagX = s.flagX := rfl
@[simp] theorem State.drawBit_flagH (s : State) : (s.drawBit.2).flagH = s.flagH := rfl
@[simp] theorem State.drawBit_flagI (s : State) : (s.drawBit.2).flagI = s.flagI := rfl
@[simp] theorem State.drawBit_flagN (s : State) : (s.drawBit.2).flagN = s.flagN := rfl
@[simp] theorem State.drawBit_flagZ (s : State) : (s.drawBit.2).flagZ = s.flagZ := rfl
@[simp] theorem State.drawBit_flagV (s : State) : (s.drawBit.2).flagV = s.flagV := rfl
@[simp] theorem State.drawBit_flagC (s : State) : (s.drawBit.2).flagC = s.flagC := rfl
@[simp] theorem State.drawBit_d (s : State) : (s.drawBit.2).d = s.d := rfl

/-! ### drawByte -/

@[simp] theorem State.drawByte_a (s : State) : (s.drawByte.2).a = s.a := rfl
@[simp] theorem State.drawByte_b (s : State) : (s.drawByte.2).b = s.b := rfl
@[simp] theorem State.drawByte_x (s : State) : (s.drawByte.2).x = s.x := rfl
@[simp] theorem State.drawByte_y (s : State) : (s.drawByte.2).y = s.y := rfl
@[simp] theorem State.drawByte_sp (s : State) : (s.drawByte.2).sp = s.sp := rfl
@[simp] theorem State.drawByte_pc (s : State) : (s.drawByte.2).pc = s.pc := rfl
@[simp] theorem State.drawByte_ccr (s : State) : (s.drawByte.2).ccr = s.ccr := rfl
@[simp] theorem State.drawByte_mem (s : State) : (s.drawByte.2).mem = s.mem := rfl
@[simp] theorem State.drawByte_draws (s : State) : (s.drawByte.2).draws = s.draws + 1 := rfl
@[simp] theorem State.drawByte_launch (s : State) : (s.drawByte.2).launch = s.launch := rfl
@[simp] theorem State.drawByte_flagS (s : State) : (s.drawByte.2).flagS = s.flagS := rfl
@[simp] theorem State.drawByte_flagX (s : State) : (s.drawByte.2).flagX = s.flagX := rfl
@[simp] theorem State.drawByte_flagH (s : State) : (s.drawByte.2).flagH = s.flagH := rfl
@[simp] theorem State.drawByte_flagI (s : State) : (s.drawByte.2).flagI = s.flagI := rfl
@[simp] theorem State.drawByte_flagN (s : State) : (s.drawByte.2).flagN = s.flagN := rfl
@[simp] theorem State.drawByte_flagZ (s : State) : (s.drawByte.2).flagZ = s.flagZ := rfl
@[simp] theorem State.drawByte_flagV (s : State) : (s.drawByte.2).flagV = s.flagV := rfl
@[simp] theorem State.drawByte_flagC (s : State) : (s.drawByte.2).flagC = s.flagC := rfl
@[simp] theorem State.drawByte_d (s : State) : (s.drawByte.2).d = s.d := rfl

/-! ### drawWord -/

@[simp] theorem State.drawWord_a (s : State) : (s.drawWord.2).a = s.a := rfl
@[simp] theorem State.drawWord_b (s : State) : (s.drawWord.2).b = s.b := rfl
@[simp] theorem State.drawWord_x (s : State) : (s.drawWord.2).x = s.x := rfl
@[simp] theorem State.drawWord_y (s : State) : (s.drawWord.2).y = s.y := rfl
@[simp] theorem State.drawWord_sp (s : State) : (s.drawWord.2).sp = s.sp := rfl
@[simp] theorem State.drawWord_pc (s : State) : (s.drawWord.2).pc = s.pc := rfl
@[simp] theorem State.drawWord_ccr (s : State) : (s.drawWord.2).ccr = s.ccr := rfl
@[simp] theorem State.drawWord_mem (s : State) : (s.drawWord.2).mem = s.mem := rfl
@[simp] theorem State.drawWord_draws (s : State) : (s.drawWord.2).draws = s.draws + 1 := rfl
@[simp] theorem State.drawWord_launch (s : State) : (s.drawWord.2).launch = s.launch := rfl
@[simp] theorem State.drawWord_flagS (s : State) : (s.drawWord.2).flagS = s.flagS := rfl
@[simp] theorem State.drawWord_flagX (s : State) : (s.drawWord.2).flagX = s.flagX := rfl
@[simp] theorem State.drawWord_flagH (s : State) : (s.drawWord.2).flagH = s.flagH := rfl
@[simp] theorem State.drawWord_flagI (s : State) : (s.drawWord.2).flagI = s.flagI := rfl
@[simp] theorem State.drawWord_flagN (s : State) : (s.drawWord.2).flagN = s.flagN := rfl
@[simp] theorem State.drawWord_flagZ (s : State) : (s.drawWord.2).flagZ = s.flagZ := rfl
@[simp] theorem State.drawWord_flagV (s : State) : (s.drawWord.2).flagV = s.flagV := rfl
@[simp] theorem State.drawWord_flagC (s : State) : (s.drawWord.2).flagC = s.flagC := rfl
@[simp] theorem State.drawWord_d (s : State) : (s.drawWord.2).d = s.d := rfl

/-! ### Free values -/

@[simp] theorem State.drawBit_fst (s : State) : s.drawBit.1 = Config.freeBit s.draws := rfl
@[simp] theorem State.drawByte_fst (s : State) : s.drawByte.1 = Config.freeByte s.draws := rfl
@[simp] theorem State.drawWord_fst (s : State) : s.drawWord.1 = Config.freeWord s.draws := rfl

/-! ### The bits of CCR after a write -/

/-- Every bit of a packed byte (R28). -/
theorem packCcr_bits (s x h i n z v c : Bool) :
    (packCcr s x h i n z v c).getLsbD 7 = s ∧ (packCcr s x h i n z v c).getLsbD 6 = x ∧
    (packCcr s x h i n z v c).getLsbD 5 = h ∧ (packCcr s x h i n z v c).getLsbD 4 = i ∧
    (packCcr s x h i n z v c).getLsbD 3 = n ∧ (packCcr s x h i n z v c).getLsbD 2 = z ∧
    (packCcr s x h i n z v c).getLsbD 1 = v ∧ (packCcr s x h i n z v c).getLsbD 0 = c := by
  cases s <;> cases x <;> cases h <;> cases i <;> cases n <;> cases z <;> cases v <;> cases c <;>
    decide

/-- A byte is the packing of its bits (R28). -/
theorem packCcr_getLsbD (v : Byte) :
    packCcr (v.getLsbD 7) (v.getLsbD 6) (v.getLsbD 5) (v.getLsbD 4) (v.getLsbD 3) (v.getLsbD 2)
      (v.getLsbD 1) (v.getLsbD 0) = v := by
  revert v; decide

@[simp] theorem State.setFlags_flagS (s : State) (u : FlagUpdate) :
    (s.setFlags u).flagS = s.flagS := (packCcr_bits _ _ _ _ _ _ _ _).1
@[simp] theorem State.setFlags_flagX (s : State) (u : FlagUpdate) :
    (s.setFlags u).flagX = s.flagX := (packCcr_bits _ _ _ _ _ _ _ _).2.1
@[simp] theorem State.setFlags_flagH (s : State) (u : FlagUpdate) :
    (s.setFlags u).flagH = u.h.getD s.flagH := (packCcr_bits _ _ _ _ _ _ _ _).2.2.1
@[simp] theorem State.setFlags_flagI (s : State) (u : FlagUpdate) :
    (s.setFlags u).flagI = u.i.getD s.flagI := (packCcr_bits _ _ _ _ _ _ _ _).2.2.2.1
@[simp] theorem State.setFlags_flagN (s : State) (u : FlagUpdate) :
    (s.setFlags u).flagN = u.n.getD s.flagN := (packCcr_bits _ _ _ _ _ _ _ _).2.2.2.2.1
@[simp] theorem State.setFlags_flagZ (s : State) (u : FlagUpdate) :
    (s.setFlags u).flagZ = u.z.getD s.flagZ := (packCcr_bits _ _ _ _ _ _ _ _).2.2.2.2.2.1
@[simp] theorem State.setFlags_flagV (s : State) (u : FlagUpdate) :
    (s.setFlags u).flagV = u.v.getD s.flagV := (packCcr_bits _ _ _ _ _ _ _ _).2.2.2.2.2.2.1
@[simp] theorem State.setFlags_flagC (s : State) (u : FlagUpdate) :
    (s.setFlags u).flagC = u.c.getD s.flagC := (packCcr_bits _ _ _ _ _ _ _ _).2.2.2.2.2.2.2

@[simp] theorem State.writeCcr_flagS (s : State) (v : Byte) :
    (s.writeCcr v).flagS = v.getLsbD 7 := by simp [State.flagS, State.writeCcr_ccr]
@[simp] theorem State.writeCcr_flagX (s : State) (v : Byte) :
    (s.writeCcr v).flagX = (s.flagX && v.getLsbD 6) := by simp [State.flagX, State.writeCcr_ccr]
@[simp] theorem State.writeCcr_flagH (s : State) (v : Byte) :
    (s.writeCcr v).flagH = v.getLsbD 5 := by simp [State.flagH, State.writeCcr_ccr]
@[simp] theorem State.writeCcr_flagI (s : State) (v : Byte) :
    (s.writeCcr v).flagI = v.getLsbD 4 := by simp [State.flagI, State.writeCcr_ccr]
@[simp] theorem State.writeCcr_flagN (s : State) (v : Byte) :
    (s.writeCcr v).flagN = v.getLsbD 3 := by simp [State.flagN, State.writeCcr_ccr]
@[simp] theorem State.writeCcr_flagZ (s : State) (v : Byte) :
    (s.writeCcr v).flagZ = v.getLsbD 2 := by simp [State.flagZ, State.writeCcr_ccr]
@[simp] theorem State.writeCcr_flagV (s : State) (v : Byte) :
    (s.writeCcr v).flagV = v.getLsbD 1 := by simp [State.flagV, State.writeCcr_ccr]
@[simp] theorem State.writeCcr_flagC (s : State) (v : Byte) :
    (s.writeCcr v).flagC = v.getLsbD 0 := by simp [State.flagC, State.writeCcr_ccr]
@[simp] theorem State.setCcr_flagS (s : State) (v : Byte) : (s.setCcr v).flagS = v.getLsbD 7 := rfl
@[simp] theorem State.setCcr_flagX (s : State) (v : Byte) : (s.setCcr v).flagX = v.getLsbD 6 := rfl
@[simp] theorem State.setCcr_flagH (s : State) (v : Byte) : (s.setCcr v).flagH = v.getLsbD 5 := rfl
@[simp] theorem State.setCcr_flagI (s : State) (v : Byte) : (s.setCcr v).flagI = v.getLsbD 4 := rfl
@[simp] theorem State.setCcr_flagN (s : State) (v : Byte) : (s.setCcr v).flagN = v.getLsbD 3 := rfl
@[simp] theorem State.setCcr_flagZ (s : State) (v : Byte) : (s.setCcr v).flagZ = v.getLsbD 2 := rfl
@[simp] theorem State.setCcr_flagV (s : State) (v : Byte) : (s.setCcr v).flagV = v.getLsbD 1 := rfl
@[simp] theorem State.setCcr_flagC (s : State) (v : Byte) : (s.setCcr v).flagC = v.getLsbD 0 := rfl

/-! ### Registers named by operands -/

@[simp] theorem State.write8_x (s : State) (r : Reg8) (v : Byte) : (s.write8 r v).x = s.x := by
  cases r <;> rfl
@[simp] theorem State.write8_y (s : State) (r : Reg8) (v : Byte) : (s.write8 r v).y = s.y := by
  cases r <;> rfl
@[simp] theorem State.write8_sp (s : State) (r : Reg8) (v : Byte) : (s.write8 r v).sp = s.sp := by
  cases r <;> rfl
@[simp] theorem State.write8_pc (s : State) (r : Reg8) (v : Byte) : (s.write8 r v).pc = s.pc := by
  cases r <;> rfl
@[simp] theorem State.write8_mem (s : State) (r : Reg8) (v : Byte) : (s.write8 r v).mem = s.mem := by
  cases r <;> rfl
@[simp] theorem State.write8_draws (s : State) (r : Reg8) (v : Byte) : (s.write8 r v).draws = s.draws := by
  cases r <;> rfl
@[simp] theorem State.write8_launch (s : State) (r : Reg8) (v : Byte) : (s.write8 r v).launch = s.launch := by
  cases r <;> rfl
@[simp] theorem State.write16_pc (s : State) (r : Reg16) (v : Word) : (s.write16 r v).pc = s.pc := by
  cases r <;> rfl
@[simp] theorem State.write16_ccr (s : State) (r : Reg16) (v : Word) : (s.write16 r v).ccr = s.ccr := by
  cases r <;> rfl
@[simp] theorem State.write16_mem (s : State) (r : Reg16) (v : Word) : (s.write16 r v).mem = s.mem := by
  cases r <;> rfl
@[simp] theorem State.write16_draws (s : State) (r : Reg16) (v : Word) : (s.write16 r v).draws = s.draws := by
  cases r <;> rfl
@[simp] theorem State.write16_launch (s : State) (r : Reg16) (v : Word) : (s.write16 r v).launch = s.launch := by
  cases r <;> rfl
@[simp] theorem State.write16_flagS (s : State) (r : Reg16) (v : Word) : (s.write16 r v).flagS = s.flagS := by
  cases r <;> rfl
@[simp] theorem State.write16_flagX (s : State) (r : Reg16) (v : Word) : (s.write16 r v).flagX = s.flagX := by
  cases r <;> rfl
@[simp] theorem State.write16_flagH (s : State) (r : Reg16) (v : Word) : (s.write16 r v).flagH = s.flagH := by
  cases r <;> rfl
@[simp] theorem State.write16_flagI (s : State) (r : Reg16) (v : Word) : (s.write16 r v).flagI = s.flagI := by
  cases r <;> rfl
@[simp] theorem State.write16_flagN (s : State) (r : Reg16) (v : Word) : (s.write16 r v).flagN = s.flagN := by
  cases r <;> rfl
@[simp] theorem State.write16_flagZ (s : State) (r : Reg16) (v : Word) : (s.write16 r v).flagZ = s.flagZ := by
  cases r <;> rfl
@[simp] theorem State.write16_flagV (s : State) (r : Reg16) (v : Word) : (s.write16 r v).flagV = s.flagV := by
  cases r <;> rfl
@[simp] theorem State.write16_flagC (s : State) (r : Reg16) (v : Word) : (s.write16 r v).flagC = s.flagC := by
  cases r <;> rfl
@[simp] theorem State.setAuto_a (s : State) (r : AutoBase) (v : Word) : (s.setAuto r v).a = s.a := by
  cases r <;> rfl
@[simp] theorem State.setAuto_b (s : State) (r : AutoBase) (v : Word) : (s.setAuto r v).b = s.b := by
  cases r <;> rfl
@[simp] theorem State.setAuto_pc (s : State) (r : AutoBase) (v : Word) : (s.setAuto r v).pc = s.pc := by
  cases r <;> rfl
@[simp] theorem State.setAuto_ccr (s : State) (r : AutoBase) (v : Word) : (s.setAuto r v).ccr = s.ccr := by
  cases r <;> rfl
@[simp] theorem State.setAuto_mem (s : State) (r : AutoBase) (v : Word) : (s.setAuto r v).mem = s.mem := by
  cases r <;> rfl
@[simp] theorem State.setAuto_draws (s : State) (r : AutoBase) (v : Word) : (s.setAuto r v).draws = s.draws := by
  cases r <;> rfl
@[simp] theorem State.setAuto_launch (s : State) (r : AutoBase) (v : Word) : (s.setAuto r v).launch = s.launch := by
  cases r <;> rfl
@[simp] theorem State.setAuto_flagS (s : State) (r : AutoBase) (v : Word) : (s.setAuto r v).flagS = s.flagS := by
  cases r <;> rfl
@[simp] theorem State.setAuto_flagX (s : State) (r : AutoBase) (v : Word) : (s.setAuto r v).flagX = s.flagX := by
  cases r <;> rfl
@[simp] theorem State.setAuto_flagH (s : State) (r : AutoBase) (v : Word) : (s.setAuto r v).flagH = s.flagH := by
  cases r <;> rfl
@[simp] theorem State.setAuto_flagI (s : State) (r : AutoBase) (v : Word) : (s.setAuto r v).flagI = s.flagI := by
  cases r <;> rfl
@[simp] theorem State.setAuto_flagN (s : State) (r : AutoBase) (v : Word) : (s.setAuto r v).flagN = s.flagN := by
  cases r <;> rfl
@[simp] theorem State.setAuto_flagZ (s : State) (r : AutoBase) (v : Word) : (s.setAuto r v).flagZ = s.flagZ := by
  cases r <;> rfl
@[simp] theorem State.setAuto_flagV (s : State) (r : AutoBase) (v : Word) : (s.setAuto r v).flagV = s.flagV := by
  cases r <;> rfl
@[simp] theorem State.setAuto_flagC (s : State) (r : AutoBase) (v : Word) : (s.setAuto r v).flagC = s.flagC := by
  cases r <;> rfl
@[simp] theorem State.stepCounter_pc (s : State) (c : Counter) (k : Int) :
    (s.stepCounter c k).2.pc = s.pc := by
  cases c <;> rfl
@[simp] theorem State.stepCounter_ccr (s : State) (c : Counter) (k : Int) :
    (s.stepCounter c k).2.ccr = s.ccr := by
  cases c <;> rfl
@[simp] theorem State.stepCounter_mem (s : State) (c : Counter) (k : Int) :
    (s.stepCounter c k).2.mem = s.mem := by
  cases c <;> rfl
@[simp] theorem State.stepCounter_draws (s : State) (c : Counter) (k : Int) :
    (s.stepCounter c k).2.draws = s.draws := by
  cases c <;> rfl
@[simp] theorem State.stepCounter_launch (s : State) (c : Counter) (k : Int) :
    (s.stepCounter c k).2.launch = s.launch := by
  cases c <;> rfl
@[simp] theorem State.failedFlags_a (s : State) (d : Bool) : (s.failedFlags d).a = s.a := by
  cases d <;> simp [State.failedFlags]
@[simp] theorem State.failedFlags_b (s : State) (d : Bool) : (s.failedFlags d).b = s.b := by
  cases d <;> simp [State.failedFlags]
@[simp] theorem State.failedFlags_x (s : State) (d : Bool) : (s.failedFlags d).x = s.x := by
  cases d <;> simp [State.failedFlags]
@[simp] theorem State.failedFlags_y (s : State) (d : Bool) : (s.failedFlags d).y = s.y := by
  cases d <;> simp [State.failedFlags]
@[simp] theorem State.failedFlags_sp (s : State) (d : Bool) : (s.failedFlags d).sp = s.sp := by
  cases d <;> simp [State.failedFlags]
@[simp] theorem State.failedFlags_pc (s : State) (d : Bool) : (s.failedFlags d).pc = s.pc := by
  cases d <;> simp [State.failedFlags]
@[simp] theorem State.failedFlags_mem (s : State) (d : Bool) : (s.failedFlags d).mem = s.mem := by
  cases d <;> simp [State.failedFlags]
@[simp] theorem State.failedFlags_launch (s : State) (d : Bool) : (s.failedFlags d).launch = s.launch := by
  cases d <;> simp [State.failedFlags]
@[simp] theorem State.failedDivide_x (s : State) (d : Bool) : (s.failedDivide d).x = s.x := by
  simp [State.failedDivide]
@[simp] theorem State.failedDivide_sp (s : State) (d : Bool) : (s.failedDivide d).sp = s.sp := by
  simp [State.failedDivide]
@[simp] theorem State.failedDivide_pc (s : State) (d : Bool) : (s.failedDivide d).pc = s.pc := by
  simp [State.failedDivide]
@[simp] theorem State.failedDivide_mem (s : State) (d : Bool) : (s.failedDivide d).mem = s.mem := by
  simp [State.failedDivide]
@[simp] theorem State.failedDivide_launch (s : State) (d : Bool) : (s.failedDivide d).launch = s.launch := by
  simp [State.failedDivide]
@[simp] theorem State.failedDivide16_y (s : State) (d : Bool) : (s.failedDivide16 d).y = s.y := by
  simp [State.failedDivide16]
@[simp] theorem State.failedDivide16_sp (s : State) (d : Bool) : (s.failedDivide16 d).sp = s.sp := by
  simp [State.failedDivide16]
@[simp] theorem State.failedDivide16_pc (s : State) (d : Bool) : (s.failedDivide16 d).pc = s.pc := by
  simp [State.failedDivide16]
@[simp] theorem State.failedDivide16_mem (s : State) (d : Bool) : (s.failedDivide16 d).mem = s.mem := by
  simp [State.failedDivide16]
@[simp] theorem State.failedDivide16_launch (s : State) (d : Bool) : (s.failedDivide16 d).launch = s.launch := by
  simp [State.failedDivide16]

/-- Reading back the register that was written, unless it is CCR (R154). -/
theorem State.read8_write8 (s : State) (r : Reg8) (v : Byte) (h : r ≠ .ccr) :
    (s.write8 r v).read8 r = v := by
  cases r <;> first | rfl | exact absurd rfl h

/-- Reading back the 16-bit register that was written (R22, R154). -/
@[simp] theorem State.read16_write16 (s : State) (r : Reg16) (v : Word) :
    (s.write16 r v).read16 r = v := by
  cases r <;> first | rfl | exact mkWord_hiByte_loByte v

/-- Reading back the base register that was changed (R83). -/
@[simp] theorem State.autoValue_setAuto (s : State) (r : AutoBase) (v : Word) :
    (s.setAuto r v).autoValue r = v := by
  cases r <;> rfl

/-- Writing D and reading it (R22). -/
@[simp] theorem State.setD_d (s : State) (v : Word) : (s.setD v).d = v := mkWord_hiByte_loByte v

@[simp] theorem State.resetRegisters_mem (s : State) : s.resetRegisters.mem = s.mem := rfl

@[simp] theorem State.resetRegisters_launch (s : State) : s.resetRegisters.launch = s.launch := rfl

@[simp] theorem State.resetRegisters_pc (s : State) : s.resetRegisters.pc = s.pc := rfl

@[simp] theorem State.resetRegisters_draws (s : State) :
    s.resetRegisters.draws = s.draws + 6 := rfl

end Sys2Proof.Machine
end

