-- ==== Sys2Proof/Laws/Memory.lean ====
section
/-! SUPPORT. What sequencing and the memory operations do: each says once everything an operation can
answer. -/

namespace Sys2Proof.Machine

/-! ### Sequencing -/

@[simp] theorem andThen_next {α β : Type} (v : α) (f : α → Res β) : andThen (.next v) f = f v := rfl

@[simp] theorem andThen_fault {α β : Type} (e : Fault) (f : α → Res β) :
    andThen (.fault e) f = .fault e := rfl

@[simp] theorem andThen_refused {α β : Type} (e : Refusal) (f : α → Res β) :
    andThen (.refused e) f = .refused e := rfl

/-- Sequencing answers a value exactly when both of its parts do. -/
theorem andThen_eq_next {α β : Type} {r : Res α} {f : α → Res β} {b : β} :
    andThen r f = .next b ↔ ∃ a, r = .next a ∧ f a = .next b := by
  cases r <;> simp [andThen]

/-! ### The memory list -/

theorem memGet_memSet_same (m : List Host.Cell) (a : Nat) (v : Byte) :
    memGet (memSet m a v) a = some v := by
  induction m with
  | nil => simp [memSet, memGet]
  | cons c rest ih =>
    obtain ⟨k, w⟩ := c
    unfold memSet
    split
    · simp [memGet]
    · split
      · simp [memGet]
      · rename_i h
        simp [memGet, Ne.symm h, ih]

theorem memGet_memSet_other (m : List Host.Cell) (a b : Nat) (v : Byte) (h : b ≠ a) :
    memGet (memSet m a v) b = memGet m b := by
  induction m with
  | nil => simp [memSet, memGet, Ne.symm h]
  | cons c rest ih =>
    obtain ⟨k, w⟩ := c
    unfold memSet
    split
    · simp [memGet, Ne.symm h]
    · split
      · rename_i e
        subst e
        simp [memGet, Ne.symm h]
      · simp [memGet, ih]

/-- Reading the memory list after one write. -/
theorem memGet_memSet (m : List Host.Cell) (a b : Nat) (v : Byte) :
    memGet (memSet m a v) b = if b = a then some v else memGet m b := by
  split
  · next h => subst h; exact memGet_memSet_same m b v
  · next h => exact memGet_memSet_other m a b v h

/-- A write of an address of the address space keeps the canonical form. -/
theorem memWfFrom_memSet (m : List Host.Cell) (lo a : Nat) (v : Byte) (hm : memWfFrom lo m = true)
    (hl : lo ≤ a) (ha : a < 65536) : memWfFrom lo (memSet m a v) = true := by
  induction m generalizing lo with
  | nil => simp [memSet, memWfFrom, hl, ha]
  | cons c rest ih =>
    obtain ⟨k, w⟩ := c
    simp only [memWfFrom, Bool.and_eq_true, decide_eq_true_eq] at hm
    unfold memSet
    split
    · simp only [memWfFrom, Bool.and_eq_true, decide_eq_true_eq]
      exact ⟨⟨hl, ha⟩, ⟨by omega, hm.1.2⟩, hm.2⟩
    · split
      · next h =>
        subst h
        simp only [memWfFrom, Bool.and_eq_true, decide_eq_true_eq]
        exact hm
      · simp only [memWfFrom, Bool.and_eq_true, decide_eq_true_eq]
        exact ⟨hm.1, ih (k + 1) hm.2 (by omega)⟩

/-- `memSet` keeps the canonical form of memory (R50). -/
theorem memWf_memSet (m : List Host.Cell) (a : Word) (v : Byte) (hm : memWf m = true) :
    memWf (memSet m a.toNat v) = true :=
  memWfFrom_memSet m 0 a.toNat v hm (Nat.zero_le _) a.isLt

/-- `placeBytes` keeps the canonical form of memory. -/
theorem memWf_placeBytes (bs : List Byte) (a : Word) (m : List Host.Cell) (hm : memWf m = true) :
    memWf (placeBytes bs a m) = true := by
  induction bs generalizing a m with
  | nil => exact hm
  | cons v rest ih => exact ih (a + 1) (memSet m a.toNat v) (memWf_memSet m a v hm)

/-- Dropping entries keeps the canonical form. -/
theorem memWfFrom_filter (p : Host.Cell → Bool) (m : List Host.Cell) (lo : Nat)
    (hm : memWfFrom lo m = true) : ∀ lo' ≤ lo, memWfFrom lo' (m.filter p) = true := by
  induction m generalizing lo with
  | nil => intro _ _; rfl
  | cons c rest ih =>
    obtain ⟨k, w⟩ := c
    simp only [memWfFrom, Bool.and_eq_true, decide_eq_true_eq] at hm
    intro lo' hl
    rw [List.filter_cons]
    split
    · simp only [memWfFrom, Bool.and_eq_true, decide_eq_true_eq]
      exact ⟨⟨by omega, hm.1.2⟩, ih (k + 1) hm.2 (k + 1) (Nat.le_refl _)⟩
    · exact ih (k + 1) hm.2 lo' (by omega)

/-- `forgetRam` keeps the canonical form of memory (R50). -/
theorem memWf_forgetRam (l : Launch) (m : List Host.Cell) (hm : memWf m = true) :
    memWf (forgetRam l m) = true :=
  memWfFrom_filter _ m 0 hm 0 (Nat.le_refl _)

/-- `forgetRam` takes the values of the RAM bytes and no others (R42). -/
theorem memGet_forgetRam (l : Launch) (m : List Host.Cell) (a : Word) :
    memGet (forgetRam l m) a.toNat =
      if l.kindOf a = .ram then none else memGet m a.toNat := by
  induction m with
  | nil => simp [forgetRam, memGet]
  | cons c rest ih =>
    obtain ⟨k, w⟩ := c
    unfold forgetRam at ih ⊢
    rw [List.filter_cons]
    by_cases hk : k = a.toNat
    · subst hk
      cases h : l.kindOf a <;> simp_all [memGet]
    · split <;> simp_all [memGet]

/-- The memory of the state at reset is in canonical form. -/
theorem memWf_reset : memWf State.reset.mem = true := rfl

/-- Placing an instruction keeps the canonical form. -/
theorem memWf_withFetchWord (s : State) (nbits w : Nat) (hm : memWf s.mem = true) :
    memWf (s.withFetchWord nbits w).mem = true :=
  memWf_placeBytes (tableBytes nbits w) s.pc s.mem hm

/-- Two canonical memories that read alike are equal. -/
theorem memGet_below (m : List Host.Cell) (lo a : Nat) (hm : memWfFrom lo m = true) (h : a < lo) :
    memGet m a = none := by
  induction m generalizing lo with
  | nil => rfl
  | cons c rest ih =>
    obtain ⟨k, w⟩ := c
    simp only [memWfFrom, Bool.and_eq_true, decide_eq_true_eq] at hm
    have : k ≠ a := by omega
    simp [memGet, this, ih (k + 1) hm.2 (by omega)]

/-! ### Bytes -/

/-- `readByte` answers a byte exactly when the address is readable and has a value (R58). -/
theorem readByte_eq_next {a : Word} {s : State} {v : Byte} :
    readByte a s = .next v ↔ HasByte s a v := by
  unfold readByte HasByte
  cases hk : s.launch.kindOf a <;> cases hm : memGet s.mem a.toNat <;> simp

/-- A read depends on the launch parameters and the byte's value alone. -/
theorem readByte_congr {a : Word} {s t : State} (hl : t.launch = s.launch)
    (hm : memGet t.mem a.toNat = memGet s.mem a.toNat) : readByte a t = readByte a s := by
  unfold readByte
  rw [hl, hm]

/-- A read of a byte does not depend on the registers. -/
theorem readByte_of_mem {a : Word} {s t : State} (hl : t.launch = s.launch) (hm : t.mem = s.mem) :
    readByte a t = readByte a s := readByte_congr hl (by rw [hm])

/-- `writeByte` answers a state exactly when the store is admitted (R58, R65), and changes that byte
alone. -/
theorem writeByte_eq_next {a : Word} {v : Byte} {s t : State} :
    writeByte a v s = .next t ↔
      CanStore s a ∧ t = s.setMem (memSet s.mem a.toNat v) := by
  unfold writeByte CanStore
  cases ht : s.launch.isText a <;> cases hk : s.launch.kindOf a <;> simp [eq_comm]

theorem toNat_ne_of_ne {a b : Word} (h : a ≠ b) : a.toNat ≠ b.toNat :=
  fun e => h (BitVec.eq_of_toNat_eq e)

/-- The address after an address is another address (R52). -/
theorem succ_ne (a : Word) : a + 1 ≠ a := by
  intro h
  bv_omega

/-- Reading after a write: the written byte has the value, every other byte reads as before. -/
theorem readByte_writeByte {a b : Word} {v : Byte} {s t : State} (h : writeByte a v s = .next t) :
    readByte b t = if b = a then .next v else readByte b s := by
  obtain ⟨hc, rfl⟩ := writeByte_eq_next.mp h
  split
  · next e =>
    subst e
    exact readByte_eq_next.mpr ⟨Or.inl hc.1, memGet_memSet_same _ _ _⟩
  · next e =>
    exact readByte_congr rfl (memGet_memSet_other _ _ _ _ (toNat_ne_of_ne e))

/-! ### Words -/

/-- `readWord` answers a word exactly when both of its bytes can be read (R53). -/
theorem readWord_eq_next {a : Word} {s : State} {w : Word} :
    readWord a s = .next w ↔ HasWord s a w := by
  unfold readWord HasWord
  simp only [andThen_eq_next, readByte_eq_next]
  constructor
  · rintro ⟨hi, h1, lo, h2, h3⟩
    cases h3
    exact ⟨by rwa [hiByte_mkWord], by rwa [loByte_mkWord]⟩
  · rintro ⟨h1, h2⟩
    exact ⟨_, h1, _, h2, by rw [mkWord_hiByte_loByte]⟩

/-- `writeWord` answers a state exactly when both stores are admitted (R54), and changes the two bytes
alone. -/
theorem writeWord_eq_next {a w : Word} {s t : State} :
    writeWord a w s = .next t ↔
      CanStoreWord s a ∧
        t = s.setMem (memSet (memSet s.mem a.toNat (hiByte w)) (a + 1).toNat (loByte w)) := by
  unfold writeWord CanStoreWord
  simp only [andThen_eq_next, writeByte_eq_next]
  constructor
  · rintro ⟨s1, ⟨h1, rfl⟩, h2, rfl⟩
    exact ⟨⟨h1, h2⟩, rfl⟩
  · rintro ⟨⟨h1, h2⟩, rfl⟩
    exact ⟨_, ⟨h1, rfl⟩, h2, rfl⟩

/-! ### The stack (R25, R168) -/

theorem pushByte_eq_next {v : Byte} {s t : State} :
    pushByte v s = .next t ↔
      CanStore s (s.sp - 1) ∧
        t = (s.setSp (s.sp - 1)).setMem (memSet s.mem (s.sp - 1).toNat v) :=
  writeByte_eq_next

theorem pushWord_eq_next {w : Word} {s t : State} :
    pushWord w s = .next t ↔
      CanStoreWord s (s.sp - 2) ∧
        t = (s.setSp (s.sp - 2)).setMem (memSet (memSet s.mem (s.sp - 2).toNat (hiByte w))
          (s.sp - 2 + 1).toNat (loByte w)) :=
  writeWord_eq_next

theorem pullByte_eq_next {s t : State} {v : Byte} :
    pullByte s = .next (v, t) ↔ HasByte s s.sp v ∧ t = s.setSp (s.sp + 1) := by
  unfold pullByte
  simp only [andThen_eq_next, readByte_eq_next]
  constructor
  · rintro ⟨v', h, e⟩
    cases e
    exact ⟨h, rfl⟩
  · rintro ⟨h, rfl⟩
    exact ⟨v, h, rfl⟩

theorem pullWord_eq_next {s t : State} {w : Word} :
    pullWord s = .next (w, t) ↔ HasWord s s.sp w ∧ t = s.setSp (s.sp + 2) := by
  unfold pullWord
  simp only [andThen_eq_next, readWord_eq_next]
  constructor
  · rintro ⟨v', h, e⟩
    cases e
    exact ⟨h, rfl⟩
  · rintro ⟨h, rfl⟩
    exact ⟨w, h, rfl⟩

end Sys2Proof.Machine
end

