-- ==== Sys2Proof/Laws/Operands.lean ====
section
/-! SUPPORT. What the operand operations do: each says once everything an operation can answer. -/

namespace Sys2Proof.Machine

/-! ### The state after an operand's automatic change -/

@[simp] theorem Idx.after_a (x : Idx) (s : State) : (Idx.after x s).a = s.a := by
  cases x <;> first | rfl | (rename_i r _ _; cases r <;> rfl)
@[simp] theorem Idx.after_b (x : Idx) (s : State) : (Idx.after x s).b = s.b := by
  cases x <;> first | rfl | (rename_i r _ _; cases r <;> rfl)
@[simp] theorem Idx.after_pc (x : Idx) (s : State) : (Idx.after x s).pc = s.pc := by
  cases x <;> first | rfl | (rename_i r _ _; cases r <;> rfl)
@[simp] theorem Idx.after_ccr (x : Idx) (s : State) : (Idx.after x s).ccr = s.ccr := by
  cases x <;> first | rfl | (rename_i r _ _; cases r <;> rfl)
@[simp] theorem Idx.after_mem (x : Idx) (s : State) : (Idx.after x s).mem = s.mem := by
  cases x <;> first | rfl | (rename_i r _ _; cases r <;> rfl)
@[simp] theorem Idx.after_draws (x : Idx) (s : State) : (Idx.after x s).draws = s.draws := by
  cases x <;> first | rfl | (rename_i r _ _; cases r <;> rfl)
@[simp] theorem Idx.after_launch (x : Idx) (s : State) : (Idx.after x s).launch = s.launch := by
  cases x <;> first | rfl | (rename_i r _ _; cases r <;> rfl)
@[simp] theorem Idx.after_d (x : Idx) (s : State) : (Idx.after x s).d = s.d := by
  cases x <;> first | rfl | (rename_i r _ _; cases r <;> rfl)
@[simp] theorem Idx.after_flagS (x : Idx) (s : State) : (Idx.after x s).flagS = s.flagS := by
  cases x <;> first | rfl | (rename_i r _ _; cases r <;> rfl)
@[simp] theorem Idx.after_flagX (x : Idx) (s : State) : (Idx.after x s).flagX = s.flagX := by
  cases x <;> first | rfl | (rename_i r _ _; cases r <;> rfl)
@[simp] theorem Idx.after_flagH (x : Idx) (s : State) : (Idx.after x s).flagH = s.flagH := by
  cases x <;> first | rfl | (rename_i r _ _; cases r <;> rfl)
@[simp] theorem Idx.after_flagI (x : Idx) (s : State) : (Idx.after x s).flagI = s.flagI := by
  cases x <;> first | rfl | (rename_i r _ _; cases r <;> rfl)
@[simp] theorem Idx.after_flagN (x : Idx) (s : State) : (Idx.after x s).flagN = s.flagN := by
  cases x <;> first | rfl | (rename_i r _ _; cases r <;> rfl)
@[simp] theorem Idx.after_flagZ (x : Idx) (s : State) : (Idx.after x s).flagZ = s.flagZ := by
  cases x <;> first | rfl | (rename_i r _ _; cases r <;> rfl)
@[simp] theorem Idx.after_flagV (x : Idx) (s : State) : (Idx.after x s).flagV = s.flagV := by
  cases x <;> first | rfl | (rename_i r _ _; cases r <;> rfl)
@[simp] theorem Idx.after_flagC (x : Idx) (s : State) : (Idx.after x s).flagC = s.flagC := by
  cases x <;> first | rfl | (rename_i r _ _; cases r <;> rfl)

@[simp] theorem Mem.after_a (x : Mem) (s : State) : (Mem.after x s).a = s.a := by
  cases x <;> first | rfl | exact Idx.after_a _ s
@[simp] theorem Mem.after_b (x : Mem) (s : State) : (Mem.after x s).b = s.b := by
  cases x <;> first | rfl | exact Idx.after_b _ s
@[simp] theorem Mem.after_pc (x : Mem) (s : State) : (Mem.after x s).pc = s.pc := by
  cases x <;> first | rfl | exact Idx.after_pc _ s
@[simp] theorem Mem.after_ccr (x : Mem) (s : State) : (Mem.after x s).ccr = s.ccr := by
  cases x <;> first | rfl | exact Idx.after_ccr _ s
@[simp] theorem Mem.after_mem (x : Mem) (s : State) : (Mem.after x s).mem = s.mem := by
  cases x <;> first | rfl | exact Idx.after_mem _ s
@[simp] theorem Mem.after_draws (x : Mem) (s : State) : (Mem.after x s).draws = s.draws := by
  cases x <;> first | rfl | exact Idx.after_draws _ s
@[simp] theorem Mem.after_launch (x : Mem) (s : State) : (Mem.after x s).launch = s.launch := by
  cases x <;> first | rfl | exact Idx.after_launch _ s
@[simp] theorem Mem.after_d (x : Mem) (s : State) : (Mem.after x s).d = s.d := by
  cases x <;> first | rfl | exact Idx.after_d _ s
@[simp] theorem Mem.after_flagS (x : Mem) (s : State) : (Mem.after x s).flagS = s.flagS := by
  cases x <;> first | rfl | exact Idx.after_flagS _ s
@[simp] theorem Mem.after_flagX (x : Mem) (s : State) : (Mem.after x s).flagX = s.flagX := by
  cases x <;> first | rfl | exact Idx.after_flagX _ s
@[simp] theorem Mem.after_flagH (x : Mem) (s : State) : (Mem.after x s).flagH = s.flagH := by
  cases x <;> first | rfl | exact Idx.after_flagH _ s
@[simp] theorem Mem.after_flagI (x : Mem) (s : State) : (Mem.after x s).flagI = s.flagI := by
  cases x <;> first | rfl | exact Idx.after_flagI _ s
@[simp] theorem Mem.after_flagN (x : Mem) (s : State) : (Mem.after x s).flagN = s.flagN := by
  cases x <;> first | rfl | exact Idx.after_flagN _ s
@[simp] theorem Mem.after_flagZ (x : Mem) (s : State) : (Mem.after x s).flagZ = s.flagZ := by
  cases x <;> first | rfl | exact Idx.after_flagZ _ s
@[simp] theorem Mem.after_flagV (x : Mem) (s : State) : (Mem.after x s).flagV = s.flagV := by
  cases x <;> first | rfl | exact Idx.after_flagV _ s
@[simp] theorem Mem.after_flagC (x : Mem) (s : State) : (Mem.after x s).flagC = s.flagC := by
  cases x <;> first | rfl | exact Idx.after_flagC _ s

@[simp] theorem Opr.after_a {w : Nat} (x : Opr w) (s : State) : (Opr.after x s).a = s.a := by
  cases x <;> first | rfl | exact Mem.after_a _ s
@[simp] theorem Opr.after_b {w : Nat} (x : Opr w) (s : State) : (Opr.after x s).b = s.b := by
  cases x <;> first | rfl | exact Mem.after_b _ s
@[simp] theorem Opr.after_pc {w : Nat} (x : Opr w) (s : State) : (Opr.after x s).pc = s.pc := by
  cases x <;> first | rfl | exact Mem.after_pc _ s
@[simp] theorem Opr.after_ccr {w : Nat} (x : Opr w) (s : State) : (Opr.after x s).ccr = s.ccr := by
  cases x <;> first | rfl | exact Mem.after_ccr _ s
@[simp] theorem Opr.after_mem {w : Nat} (x : Opr w) (s : State) : (Opr.after x s).mem = s.mem := by
  cases x <;> first | rfl | exact Mem.after_mem _ s
@[simp] theorem Opr.after_draws {w : Nat} (x : Opr w) (s : State) : (Opr.after x s).draws = s.draws := by
  cases x <;> first | rfl | exact Mem.after_draws _ s
@[simp] theorem Opr.after_launch {w : Nat} (x : Opr w) (s : State) : (Opr.after x s).launch = s.launch := by
  cases x <;> first | rfl | exact Mem.after_launch _ s
@[simp] theorem Opr.after_d {w : Nat} (x : Opr w) (s : State) : (Opr.after x s).d = s.d := by
  cases x <;> first | rfl | exact Mem.after_d _ s
@[simp] theorem Opr.after_flagS {w : Nat} (x : Opr w) (s : State) : (Opr.after x s).flagS = s.flagS := by
  cases x <;> first | rfl | exact Mem.after_flagS _ s
@[simp] theorem Opr.after_flagX {w : Nat} (x : Opr w) (s : State) : (Opr.after x s).flagX = s.flagX := by
  cases x <;> first | rfl | exact Mem.after_flagX _ s
@[simp] theorem Opr.after_flagH {w : Nat} (x : Opr w) (s : State) : (Opr.after x s).flagH = s.flagH := by
  cases x <;> first | rfl | exact Mem.after_flagH _ s
@[simp] theorem Opr.after_flagI {w : Nat} (x : Opr w) (s : State) : (Opr.after x s).flagI = s.flagI := by
  cases x <;> first | rfl | exact Mem.after_flagI _ s
@[simp] theorem Opr.after_flagN {w : Nat} (x : Opr w) (s : State) : (Opr.after x s).flagN = s.flagN := by
  cases x <;> first | rfl | exact Mem.after_flagN _ s
@[simp] theorem Opr.after_flagZ {w : Nat} (x : Opr w) (s : State) : (Opr.after x s).flagZ = s.flagZ := by
  cases x <;> first | rfl | exact Mem.after_flagZ _ s
@[simp] theorem Opr.after_flagV {w : Nat} (x : Opr w) (s : State) : (Opr.after x s).flagV = s.flagV := by
  cases x <;> first | rfl | exact Mem.after_flagV _ s
@[simp] theorem Opr.after_flagC {w : Nat} (x : Opr w) (s : State) : (Opr.after x s).flagC = s.flagC := by
  cases x <;> first | rfl | exact Mem.after_flagC _ s

/-- A base register that the operand does not change. -/
theorem Mem.after_reg (m : Mem) (s : State) (r : AutoBase) (h : m.autoBase ≠ some r) :
    (Mem.after m s).autoValue r = s.autoValue r := by
  cases m with
  | dir _ => rfl
  | ext _ => rfl
  | idx x =>
    cases x with
    | auto q _ _ => cases q <;> cases r <;> first | rfl | exact absurd rfl h
    | _ => rfl

/-- A base register that the source operand does not change. -/
theorem Opr.after_reg {w : Nat} (o : Opr w) (s : State) (r : AutoBase) (h : o.autoBase ≠ some r) :
    (Opr.after o s).autoValue r = s.autoValue r := by
  cases o with
  | imm _ => rfl
  | mem m => exact Mem.after_reg m s r h

/-! ### Effective addresses -/

/-- Computing an indexed address changes the base register of an auto form and nothing else (R83). -/
theorem idxAddress_state {slot : Slot} {next ea : Word} {x : Idx} {s t : State}
    (h : idxAddress slot next x s = .next (ea, t)) : t = Idx.after x s := by
  cases x <;> simp only [idxAddress, andThen_eq_next] at h
  case auto r post n => cases h; rfl
  case ind16 r n =>
    obtain ⟨_, _, _, _, e⟩ := h
    cases e; rfl
  case indD r =>
    obtain ⟨_, _, _, _, e⟩ := h
    cases e; rfl
  all_goals
    obtain ⟨_, _, e⟩ := h
    cases e; rfl

theorem classAddress_eq_next {c : IdxClass} {slot : Slot} {next ea : Word} {x : Idx} {s t : State} :
    classAddress c slot next x s = .next (ea, t) ↔
      x.inClass c = true ∧ idxAddress slot next x s = .next (ea, t) := by
  unfold classAddress
  split
  · next h => simp [h]
  · next h => simp [h]

/-- Computing a memory operand's address changes its base register and nothing else. -/
theorem memAddress_state {c : IdxClass} {next ea : Word} {m : Mem} {s t : State}
    (h : memAddress c next m s = .next (ea, t)) : t = Mem.after m s := by
  cases m with
  | dir _ => cases h; rfl
  | ext _ => cases h; rfl
  | idx x => exact idxAddress_state (classAddress_eq_next.mp h).2

/-! ### Operand values -/

theorem operand8_eq_next {next : Word} {o : Opr 8} {s t : State} {v : Byte} :
    operand8 next o s = .next (v, t) ↔
      match o with
      | .imm ii => v = ii ∧ t = s
      | .mem m => ∃ ea, memAddress .all next m s = .next (ea, t) ∧ HasByte t ea v := by
  cases o with
  | imm ii => simp [operand8, eq_comm]
  | mem m =>
    simp only [operand8, andThen_eq_next]
    constructor
    · rintro ⟨⟨ea, s1⟩, h1, v', h2, e⟩
      cases e
      exact ⟨ea, h1, readByte_eq_next.mp h2⟩
    · rintro ⟨ea, h1, h2⟩
      exact ⟨(ea, t), h1, v, readByte_eq_next.mpr h2, rfl⟩

theorem operand16_eq_next {next : Word} {o : Opr 16} {s t : State} {v : Word} :
    operand16 next o s = .next (v, t) ↔
      match o with
      | .imm jjkk => v = jjkk ∧ t = s
      | .mem m => ∃ ea, memAddress .all next m s = .next (ea, t) ∧ HasWord t ea v := by
  cases o with
  | imm ii => simp [operand16, eq_comm]
  | mem m =>
    simp only [operand16, andThen_eq_next]
    constructor
    · rintro ⟨⟨ea, s1⟩, h1, v', h2, e⟩
      cases e
      exact ⟨ea, h1, readWord_eq_next.mp h2⟩
    · rintro ⟨ea, h1, h2⟩
      exact ⟨(ea, t), h1, v, readWord_eq_next.mpr h2, rfl⟩

/-- Reading a source operand changes its base register and nothing else. -/
theorem operand8_state {next : Word} {o : Opr 8} {s t : State} {v : Byte}
    (h : operand8 next o s = .next (v, t)) : t = Opr.after o s := by
  cases o with
  | imm _ => exact (operand8_eq_next.mp h).2
  | mem m =>
    obtain ⟨_, h1, _⟩ := operand8_eq_next.mp h
    exact memAddress_state h1

theorem operand16_state {next : Word} {o : Opr 16} {s t : State} {v : Word}
    (h : operand16 next o s = .next (v, t)) : t = Opr.after o s := by
  cases o with
  | imm _ => exact (operand16_eq_next.mp h).2
  | mem m =>
    obtain ⟨_, h1, _⟩ := operand16_eq_next.mp h
    exact memAddress_state h1

/-! ### The shared shapes of an instruction -/

theorem unlessAutoBase_eq_next {r : AutoBase} {b : Option AutoBase} {go : Res State} {t : State} :
    unlessAutoBase r b go = .next t ↔ b ≠ some r ∧ go = .next t := by
  unfold unlessAutoBase
  split
  · next h => simp [h]
  · next h => simp [h]

theorem done_eq_next {len : Nat} {s t : State} :
    Res.done len s = .next t ↔ t = s.advance len := by
  simp [Res.done, eq_comm]

theorem withOperand8_eq_next {o : Opr 8} {s t : State} {f : Byte → State → State} :
    withOperand8 o s f = .next t ↔
      ∃ m s1, operand8 (s.nextPc (1 + o.length)) o s = .next (m, s1) ∧
        t = (f m s1).advance (1 + o.length) := by
  simp only [withOperand8, andThen_eq_next]
  constructor
  · rintro ⟨⟨m, s1⟩, h, e⟩
    cases e
    exact ⟨m, s1, h, rfl⟩
  · rintro ⟨m, s1, h, rfl⟩
    exact ⟨(m, s1), h, rfl⟩

theorem withOperand16_eq_next {o : Opr 16} {s t : State} {f : Word → State → State} :
    withOperand16 o s f = .next t ↔
      ∃ m s1, operand16 (s.nextPc (1 + o.length)) o s = .next (m, s1) ∧
        t = (f m s1).advance (1 + o.length) := by
  simp only [withOperand16, andThen_eq_next]
  constructor
  · rintro ⟨⟨m, s1⟩, h, e⟩
    cases e
    exact ⟨m, s1, h, rfl⟩
  · rintro ⟨m, s1, h, rfl⟩
    exact ⟨(m, s1), h, rfl⟩

theorem storeByte_eq_next {m : Mem} {v : Byte} {s t : State} :
    storeByte m v s = .next t ↔
      ∃ ea s1 s2, memAddress .all (s.nextPc (1 + m.length)) m s = .next (ea, s1) ∧
        writeByte ea v s1 = .next s2 ∧ t = (s2.setFlags (nzv0 v)).advance (1 + m.length) := by
  simp only [storeByte, andThen_eq_next]
  constructor
  · rintro ⟨⟨ea, s1⟩, h, s2, hw, e⟩
    cases e
    exact ⟨ea, s1, s2, h, hw, rfl⟩
  · rintro ⟨ea, s1, s2, h, hw, rfl⟩
    exact ⟨(ea, s1), h, s2, hw, rfl⟩

theorem storeWord_eq_next {m : Mem} {v : Word} {s t : State} :
    storeWord m v s = .next t ↔
      ∃ ea s1 s2, memAddress .all (s.nextPc (1 + m.length)) m s = .next (ea, s1) ∧
        writeWord ea v s1 = .next s2 ∧ t = (s2.setFlags (nzv0 v)).advance (1 + m.length) := by
  simp only [storeWord, andThen_eq_next]
  constructor
  · rintro ⟨⟨ea, s1⟩, h, s2, hw, e⟩
    cases e
    exact ⟨ea, s1, s2, h, hw, rfl⟩
  · rintro ⟨ea, s1, s2, h, hw, rfl⟩
    exact ⟨(ea, s1), h, s2, hw, rfl⟩

/-- A read-modify-write instruction: the byte read and the byte written stand at one address (R64). -/
theorem modifyByte_eq_next {c : IdxClass} {m : Mem} {len : Nat}
    {f : Bool → Byte → Byte × FlagUpdate} {s t : State} :
    modifyByte c m len f s = .next t ↔
      ∃ ea s1 v s2, memAddress c (s.nextPc len) m s = .next (ea, s1) ∧ HasByte s1 ea v ∧
        writeByte ea (f s1.flagC v).1 s1 = .next s2 ∧
        t = (s2.setFlags (f s1.flagC v).2).advance len := by
  simp only [modifyByte, andThen_eq_next]
  constructor
  · rintro ⟨⟨ea, s1⟩, h, v, hr, s2, hw, e⟩
    cases e
    exact ⟨ea, s1, v, s2, h, readByte_eq_next.mp hr, hw, rfl⟩
  · rintro ⟨ea, s1, v, s2, h, hr, hw, rfl⟩
    exact ⟨(ea, s1), h, v, readByte_eq_next.mpr hr, s2, hw, rfl⟩

theorem loadAddress_eq_next {write : Word → State → State} {x : Idx} {s t : State} :
    loadAddress write x s = .next t ↔
      ∃ ea s1, classAddress .noind .sole (s.nextPc (1 + x.length)) x s = .next (ea, s1) ∧
        t = (write ea s1).advance (1 + x.length) := by
  simp only [loadAddress, andThen_eq_next]
  constructor
  · rintro ⟨⟨ea, s1⟩, h, e⟩
    cases e
    exact ⟨ea, s1, h, rfl⟩
  · rintro ⟨ea, s1, h, rfl⟩
    exact ⟨(ea, s1), h, rfl⟩

theorem moveAddress_state {slot : Slot} {next b : Word} {m : MemX} {s t : State}
    (h : moveAddress slot next m s = .next (b, t)) : t = Mem.after m.toMem s := by
  cases m with
  | ext _ => cases h; rfl
  | idx x => exact idxAddress_state (classAddress_eq_next.mp h).2

theorem moveSource_state {w : Nat} {read : Word → State → Res (BitVec w)} {next : Word} {m : Mov w}
    {s t : State} {v : BitVec w} (h : moveSource read next m s = .next (v, t)) :
    t = Mov.afterSource m s := by
  unfold moveSource at h
  unfold Mov.afterSource
  cases hm : m.source with
  | inl u =>
    rw [hm] at h
    cases h
    rfl
  | inr x =>
    rw [hm] at h
    simp only [andThen_eq_next] at h
    obtain ⟨⟨a, s1⟩, h1, u, _, e⟩ := h
    cases e
    exact moveAddress_state h1

theorem move_eq_next {w : Nat} {read : Word → State → Res (BitVec w)}
    {write : Word → BitVec w → State → Res State} {m : Mov w} {s t : State} :
    move read write m s = .next t ↔
      ¬ (m.sourceAuto ≠ none ∧ m.sourceAuto = m.destAuto) ∧
      ∃ v s1 b s2 s3, moveSource read (s.nextPc (2 + m.length)) m s = .next (v, s1) ∧
        moveAddress .moveDest (s.nextPc (2 + m.length)) m.dest s1 = .next (b, s2) ∧
        write b v s2 = .next s3 ∧ t = s3.advance (2 + m.length) := by
  unfold move
  split
  · next h => exact ⟨fun e => (nomatch e), fun e => absurd h e.1⟩
  · next h =>
    simp only [andThen_eq_next]
    constructor
    · rintro ⟨⟨v, s1⟩, h1, ⟨b, s2⟩, h2, s3, h3, e⟩
      exact ⟨h, v, s1, b, s2, s3, h1, h2, h3, done_eq_next.mp e⟩
    · rintro ⟨_, v, s1, b, s2, s3, h1, h2, h3, e⟩
      exact ⟨(v, s1), h1, (b, s2), h2, s3, h3, done_eq_next.mpr e⟩

theorem branchOnByte_eq_next {m : Mem} {taken : Byte → Bool} {rr : Byte} {s t : State} :
    branchOnByte m taken rr s = .next t ↔
      ∃ ea s1 v, memAddress .noind (s.nextPc (3 + m.length)) m s = .next (ea, s1) ∧
        HasByte s1 ea v ∧ branchIf (taken v) (3 + m.length) (sext16 rr) s1 = .next t := by
  simp only [branchOnByte, andThen_eq_next]
  constructor
  · rintro ⟨⟨ea, s1⟩, h, v, hr, e⟩
    exact ⟨ea, s1, v, h, readByte_eq_next.mp hr, e⟩
  · rintro ⟨ea, s1, v, h, hr, e⟩
    exact ⟨(ea, s1), h, v, readByte_eq_next.mpr hr, e⟩

/-- Where a branch goes (R301). -/
theorem branchIf_eq_next {taken : Bool} {len : Nat} {rel : Word} {s t : State} :
    branchIf taken len rel s = .next t ↔
      t = (if taken then s.setPc (s.pc + rel) else s).advance len := done_eq_next

end Sys2Proof.Machine
end

