-- ==== Sys2Proof/Laws/Flags.lean ====
section
/-! SUPPORT. What the flag computations say about numbers: V of an addition or subtraction is signed
overflow, C the carry or the borrow, and the order that the branch conditions read. -/

namespace Sys2Proof.Machine

/-! ### Addition and subtraction (R11, R29, R30) -/

/-- The result of `ADDn` is the sum with the carry. -/
theorem addn_r {w : Nat} (a b : BitVec w) (c : Bool) :
    (addn a b c).r = a + b + BitVec.ofNat w c.toNat := by
  apply BitVec.eq_of_toNat_eq
  simp [addn, BitVec.toNat_add]

theorem addn_v8 (a b : Byte) (c : Bool) :
    (addn a b c).v = true ↔ ¬ Fits 8 (a.toInt + b.toInt + c.toNat) := by
  have ha := a.isLt
  have hb := b.isLt
  have hc : c.toNat ≤ 1 := by cases c <;> decide
  simp only [addn, Fits, BitVec.msb_eq_decide, BitVec.toInt_eq_toNat_cond, BitVec.toNat_ofNat,
    Bool.and_eq_true, beq_iff_eq, bne_iff_ne, ne_eq, decide_eq_decide]
  split <;> split <;> omega

theorem addn_v16 (a b : Word) (c : Bool) :
    (addn a b c).v = true ↔ ¬ Fits 16 (a.toInt + b.toInt + c.toNat) := by
  have ha := a.isLt
  have hb := b.isLt
  have hc : c.toNat ≤ 1 := by cases c <;> decide
  simp only [addn, Fits, BitVec.msb_eq_decide, BitVec.toInt_eq_toNat_cond, BitVec.toNat_ofNat,
    Bool.and_eq_true, beq_iff_eq, bne_iff_ne, ne_eq, decide_eq_decide]
  split <;> split <;> omega

/-- The number that a difference with a borrow stands for. -/
theorem sub_borrow_toNat {w : Nat} (a b : BitVec w) (c : Bool) :
    (a - b - BitVec.ofNat w c.toNat).toNat =
      (2 ^ w + (2 ^ w + a.toNat - b.toNat) - (c.toNat % 2 ^ w)) % 2 ^ w := by
  have hb := b.isLt
  have ha := a.isLt
  rw [BitVec.toNat_sub, BitVec.toNat_sub, BitVec.toNat_ofNat]
  have h2 : c.toNat % 2 ^ w < 2 ^ w := Nat.mod_lt _ (by positivity)
  rw [Nat.add_mod, Nat.mod_mod, ← Nat.add_mod]
  congr 1
  omega

theorem subn_v8 (a b : Byte) (c : Bool) :
    (subn a b c).v = true ↔ ¬ Fits 8 (a.toInt - b.toInt - c.toNat) := by
  have ha := a.isLt
  have hb := b.isLt
  have hc : c.toNat ≤ 1 := by cases c <;> decide
  simp only [subn, Fits, BitVec.msb_eq_decide, BitVec.toInt_eq_toNat_cond, sub_borrow_toNat,
    Bool.and_eq_true, bne_iff_ne, ne_eq, decide_eq_decide]
  split <;> split <;> omega

theorem subn_v16 (a b : Word) (c : Bool) :
    (subn a b c).v = true ↔ ¬ Fits 16 (a.toInt - b.toInt - c.toNat) := by
  have ha := a.isLt
  have hb := b.isLt
  have hc : c.toNat ≤ 1 := by cases c <;> decide
  simp only [subn, Fits, BitVec.msb_eq_decide, BitVec.toInt_eq_toNat_cond, sub_borrow_toNat,
    Bool.and_eq_true, bne_iff_ne, ne_eq, decide_eq_decide]
  split <;> split <;> omega

/-- N and Z taken from a result say what `NZ` says. -/
theorem nz_of {w : Nat} {r : BitVec w} {t : State} (hn : t.flagN = r.msb)
    (hz : t.flagZ = (r == 0)) : NZ r t := ⟨hn, by rw [hz]; exact beq_iff_eq⟩

/-- A state whose N, Z, V and C are those of an 8-bit `ADDn`. -/
theorem addFlags8_of {a b : Byte} {c : Bool} {t : State} (hn : t.flagN = (addn a b c).n)
    (hz : t.flagZ = (addn a b c).z) (hv : t.flagV = (addn a b c).v)
    (hc : t.flagC = (addn a b c).c) : AddFlags a b c t :=
  ⟨addn_r a b c ▸ nz_of hn hz, hv ▸ addn_v8 a b c, hc ▸ decide_eq_true_iff⟩

/-- A state whose N, Z, V and C are those of a 16-bit `ADDn`. -/
theorem addFlags16_of {a b : Word} {c : Bool} {t : State} (hn : t.flagN = (addn a b c).n)
    (hz : t.flagZ = (addn a b c).z) (hv : t.flagV = (addn a b c).v)
    (hc : t.flagC = (addn a b c).c) : AddFlags a b c t :=
  ⟨addn_r a b c ▸ nz_of hn hz, hv ▸ addn_v16 a b c, hc ▸ decide_eq_true_iff⟩

/-- A state whose N, Z, V and C are those of an 8-bit `SUBn`. -/
theorem subFlags8_of {a b : Byte} {c : Bool} {t : State} (hn : t.flagN = (subn a b c).n)
    (hz : t.flagZ = (subn a b c).z) (hv : t.flagV = (subn a b c).v)
    (hc : t.flagC = (subn a b c).c) : SubFlags a b c t :=
  ⟨nz_of hn hz, hv ▸ subn_v8 a b c, hc ▸ decide_eq_true_iff⟩

/-- A state whose N, Z, V and C are those of a 16-bit `SUBn`. -/
theorem subFlags16_of {a b : Word} {c : Bool} {t : State} (hn : t.flagN = (subn a b c).n)
    (hz : t.flagZ = (subn a b c).z) (hv : t.flagV = (subn a b c).v)
    (hc : t.flagC = (subn a b c).c) : SubFlags a b c t :=
  ⟨nz_of hn hz, hv ▸ subn_v16 a b c, hc ▸ decide_eq_true_iff⟩

/-! ### Increment and decrement (R220) -/

/-- An increment overflows at $7F alone. -/
theorem incOp_overflow (m : Byte) : m = 0x7F ↔ ¬ Fits 8 (m.toInt + 1) := by
  unfold Fits; revert m; decide

/-- A decrement overflows at $80 alone. -/
theorem decOp_overflow (m : Byte) : m = 0x80 ↔ ¬ Fits 8 (m.toInt - 1) := by
  unfold Fits; revert m; decide

/-! ### The order that the branch conditions read (R302) -/

theorem fits8 (z : Int) : Fits 8 z ↔ -128 ≤ z ∧ z < 128 := Iff.rfl

theorem fits16 (z : Int) : Fits 16 z ↔ -32768 ≤ z ∧ z < 32768 := Iff.rfl

/-- After an 8-bit subtraction without a borrow, C, Z and N xor V tell the order of its operands. -/
theorem order8_of_subFlags {a m : Byte} {t : State} (h : SubFlags a m false t) :
    (t.flagC = true ↔ a.toNat < m.toNat) ∧ (t.flagZ = true ↔ a = m) ∧
      (t.flagN ≠ t.flagV ↔ a.toInt < m.toInt) := by
  obtain ⟨⟨hn, hz⟩, hv, hc⟩ := h
  have ha := a.isLt
  have hb := m.isLt
  refine ⟨by simpa using hc, ?_, ?_⟩
  · rw [hz]
    simp [BitVec.sub_eq_iff_eq_add]
  · have hN : t.flagN = true ↔ 128 ≤ (256 + a.toNat - m.toNat) % 256 := by
      rw [hn, BitVec.msb_eq_decide, sub_borrow_toNat, decide_eq_true_iff]
      simp
    rw [ne_eq, Bool.eq_iff_iff, hN, hv, fits8, BitVec.toInt_eq_toNat_cond,
      BitVec.toInt_eq_toNat_cond]
    simp only [Bool.toNat_false]
    split <;> split <;> simp <;> omega

/-- After a 16-bit subtraction without a borrow, C, Z and N xor V tell the order of its operands. -/
theorem order16_of_subFlags {a m : Word} {t : State} (h : SubFlags a m false t) :
    (t.flagC = true ↔ a.toNat < m.toNat) ∧ (t.flagZ = true ↔ a = m) ∧
      (t.flagN ≠ t.flagV ↔ a.toInt < m.toInt) := by
  obtain ⟨⟨hn, hz⟩, hv, hc⟩ := h
  have ha := a.isLt
  have hb := m.isLt
  refine ⟨by simpa using hc, ?_, ?_⟩
  · rw [hz]
    simp [BitVec.sub_eq_iff_eq_add]
  · have hN : t.flagN = true ↔ 32768 ≤ (65536 + a.toNat - m.toNat) % 65536 := by
      rw [hn, BitVec.msb_eq_decide, sub_borrow_toNat, decide_eq_true_iff]
      simp
    rw [ne_eq, Bool.eq_iff_iff, hN, hv, fits16, BitVec.toInt_eq_toNat_cond,
      BitVec.toInt_eq_toNat_cond]
    simp only [Bool.toNat_false]
    split <;> split <;> simp <;> omega

/-- DAA computes in exactly the states that an addition of two packed-BCD bytes and a carry leaves
(D17). -/
theorem daaValid_iff (a : Byte) (c h : Bool) :
    daaValid a c h = true ↔
      ∃ x1 x0 y1 y0 k : Nat, x1 ≤ 9 ∧ x0 ≤ 9 ∧ y1 ≤ 9 ∧ y0 ≤ 9 ∧ k ≤ 1 ∧
        (16 * x1 + x0) + (16 * y1 + y0) + k = a.toNat + 256 * c.toNat ∧
        (h = true ↔ 16 ≤ x0 + y0 + k) := by
  have ha := a.isLt
  constructor
  · intro hv
    cases h with
    | false =>
      refine ⟨min 9 (a.toNat / 16 + 16 * c.toNat), min 9 (a.toNat % 16),
        a.toNat / 16 + 16 * c.toNat - 9, a.toNat % 16 - 9, 0, ?_⟩
      cases c <;> simp [daaValid] at hv ⊢ <;> omega
    | true =>
      refine ⟨min 9 (a.toNat / 16 + 16 * c.toNat - 1), 9,
        a.toNat / 16 + 16 * c.toNat - 10, 6 + a.toNat % 16, 1, ?_⟩
      cases c <;> simp [daaValid] at hv ⊢ <;> omega
  · rintro ⟨x1, x0, y1, y0, k, h1, h2, h3, h4, h5, h6, h7⟩
    cases c <;> cases h <;> simp [daaValid] at h6 h7 ⊢ <;> omega

end Sys2Proof.Machine
end

