-- ==== Sys2Proof/Laws/PerInstr.lean ====
section
/-! SUPPORT. What holds of each instruction as syntax, one lemma for each constructor: the encoding of a
well-formed instruction has one to six bytes (spec R70). -/

namespace Sys2Proof

/-! ### Lengths of operands -/

theorem Idx.length_le (x : Idx) : x.length ≤ 3 := by cases x <;> simp [Idx.length, Idx.ext]

theorem Idx.encode_length (x : Idx) : x.encode.length = x.length := by
  cases x <;> simp [Idx.encode, Idx.length, Idx.ext, encodeWord]

/-- A sub-form of class IDX-short is its postbyte alone (R89). -/
theorem Idx.length_of_short {x : Idx} (h : x.inClass .short = true) : x.encode.length = 1 := by
  cases x <;> first | rfl | cases h

theorem Mem.encode_length (d e x : Byte) (m : Mem) : (m.encode d e x).length = 1 + m.length := by
  cases m with
  | dir _ => rfl
  | ext _ => rfl
  | idx y => simp [Mem.encode, Mem.length, Idx.encode_length]; omega

theorem Mem.length_le (m : Mem) : m.length ≤ 3 := by
  cases m with
  | dir _ => simp [Mem.length]
  | ext _ => simp [Mem.length]
  | idx y => exact y.length_le

theorem MemX.encode_length (e x : Byte) (m : MemX) :
    (m.encode e x).length = 1 + m.toMem.length := by
  cases m with
  | ext _ => rfl
  | idx y => simp [MemX.encode, MemX.toMem, Mem.length, Idx.encode_length]; omega

theorem encodeOpr8_length (i d e x : Byte) (o : Opr 8) :
    (encodeOpr8 i d e x o).length = 1 + o.length := by
  cases o with
  | imm _ => rfl
  | mem m => exact m.encode_length d e x

theorem encodeOpr16_length (i d e x : Byte) (o : Opr 16) :
    (encodeOpr16 i d e x o).length = 1 + o.length := by
  cases o with
  | imm _ => rfl
  | mem m => exact m.encode_length d e x

theorem Opr.length_le8 (o : Opr 8) : o.length ≤ 3 := by
  cases o with
  | imm _ => simp [Opr.length]
  | mem m => exact m.length_le

theorem Opr.length_le16 (o : Opr 16) : o.length ≤ 3 := by
  cases o with
  | imm _ => simp [Opr.length]
  | mem m => exact m.length_le

theorem encodeMovb_length (m : Mov 8) : (encodeMovb m).length = 2 + m.length := by
  cases m <;> simp [encodeMovb, Mov.length, Idx.encode_length, encodeWord] <;> omega

theorem encodeMovw_length (m : Mov 16) : (encodeMovw m).length = 2 + m.length := by
  cases m <;> simp [encodeMovw, Mov.length, Idx.encode_length, encodeWord] <;> omega

/-- The operands of a move take at most four bytes (R74, R93). -/
theorem Mov.length_le {w : Nat} {m : Mov w} (hw : w ≤ 16) (h : m.inClass = true) :
    m.length ≤ 4 := by
  have hw8 : w / 8 ≤ 2 := by omega
  cases m with
  | imId v y =>
    have := Idx.length_of_short (x := y) h
    rw [Idx.encode_length] at this
    simp only [Mov.length]; omega
  | exId a y =>
    have := Idx.length_of_short (x := y) h
    rw [Idx.encode_length] at this
    simp only [Mov.length]; omega
  | idId y z =>
    obtain ⟨hy, hz⟩ := Bool.and_eq_true_iff.mp h
    have h1 := Idx.length_of_short (x := y) hy
    have h2 := Idx.length_of_short (x := z) hz
    rw [Idx.encode_length] at h1 h2
    simp only [Mov.length]; omega
  | imEx v a => simp only [Mov.length]; omega
  | exEx a b => simp [Mov.length]
  | idEx y a =>
    have := Idx.length_of_short (x := y) h
    rw [Idx.encode_length] at this
    simp only [Mov.length]; omega

namespace Laws

/-! ### One lemma for each instruction -/

/-- A well-formed instruction is one to six bytes long (R70). -/
def EncodedLength.Statement (i : Instr) : Prop :=
  i.WellFormed → 1 ≤ (encode i).length ∧ (encode i).length ≤ 6

namespace EncodedLength

/-- From an exact length to the bounds. -/
theorem of_length {bs : List Byte} {n : Nat} (h : bs.length = n) (h1 : 1 ≤ n) (h6 : n ≤ 6) :
    1 ≤ bs.length ∧ bs.length ≤ 6 := by rw [h]; exact ⟨h1, h6⟩

theorem of_opr8 (i d e x : Byte) (o : Opr 8) :
    1 ≤ (encodeOpr8 i d e x o).length ∧ (encodeOpr8 i d e x o).length ≤ 6 := by
  have := o.length_le8
  exact of_length (encodeOpr8_length i d e x o) (by omega) (by omega)

theorem of_opr16 (i d e x : Byte) (o : Opr 16) :
    1 ≤ (encodeOpr16 i d e x o).length ∧ (encodeOpr16 i d e x o).length ≤ 6 := by
  have := o.length_le16
  exact of_length (encodeOpr16_length i d e x o) (by omega) (by omega)

theorem of_mem (d e x : Byte) (m : Mem) :
    1 ≤ (m.encode d e x).length ∧ (m.encode d e x).length ≤ 6 := by
  have := m.length_le
  exact of_length (m.encode_length d e x) (by omega) (by omega)

theorem of_memX (e x : Byte) (m : MemX) :
    1 ≤ (m.encode e x).length ∧ (m.encode e x).length ≤ 6 := by
  have := m.toMem.length_le
  exact of_length (m.encode_length e x) (by omega) (by omega)

theorem of_idx (op : Byte) (x : Idx) :
    1 ≤ (op :: x.encode).length ∧ (op :: x.encode).length ≤ 6 := by
  have := x.length_le
  exact of_length (n := x.length + 1) (by rw [List.length_cons, x.encode_length]) (by omega)
    (by omega)

theorem of_append (d e x : Byte) (m : Mem) (bs : List Byte) (h : bs.length ≤ 2) :
    1 ≤ (m.encode d e x ++ bs).length ∧ (m.encode d e x ++ bs).length ≤ 6 := by
  have := m.length_le
  exact of_length (n := 1 + m.length + bs.length)
    (by rw [List.length_append, m.encode_length]) (by omega) (by omega)

theorem ldaa (o : Opr 8) : Statement (.ldaa o) := fun _ => of_opr8 _ _ _ _ o

theorem ldab (o : Opr 8) : Statement (.ldab o) := fun _ => of_opr8 _ _ _ _ o

theorem ldd (o : Opr 16) : Statement (.ldd o) := fun _ => of_opr16 _ _ _ _ o

theorem lds (o : Opr 16) : Statement (.lds o) := fun _ => of_opr16 _ _ _ _ o

theorem ldx (o : Opr 16) : Statement (.ldx o) := fun _ => of_opr16 _ _ _ _ o

theorem ldy (o : Opr 16) : Statement (.ldy o) := fun _ => of_opr16 _ _ _ _ o

theorem leas (x : Idx) : Statement (.leas x) := fun _ => of_idx _ x

theorem leax (x : Idx) : Statement (.leax x) := fun _ => of_idx _ x

theorem leay (x : Idx) : Statement (.leay x) := fun _ => of_idx _ x

theorem staa (m : Mem) : Statement (.staa m) := fun _ => of_mem _ _ _ m

theorem stab (m : Mem) : Statement (.stab m) := fun _ => of_mem _ _ _ m

theorem std (m : Mem) : Statement (.std m) := fun _ => of_mem _ _ _ m

theorem sts (m : Mem) : Statement (.sts m) := fun _ => of_mem _ _ _ m

theorem stx (m : Mem) : Statement (.stx m) := fun _ => of_mem _ _ _ m

theorem sty (m : Mem) : Statement (.sty m) := fun _ => of_mem _ _ _ m

theorem tab : Statement .tab := fun _ => of_length (n := 2) rfl (by decide) (by decide)

theorem tap : Statement .tap := fun _ => of_length (n := 2) rfl (by decide) (by decide)

theorem tba : Statement .tba := fun _ => of_length (n := 2) rfl (by decide) (by decide)

theorem tfr (r : Reg) (R : Reg) : Statement (.tfr r R) :=
  fun _ => of_length (n := 2) rfl (by decide) (by decide)

theorem tpa : Statement .tpa := fun _ => of_length (n := 2) rfl (by decide) (by decide)

theorem tsx : Statement .tsx := fun _ => of_length (n := 2) rfl (by decide) (by decide)

theorem tsy : Statement .tsy := fun _ => of_length (n := 2) rfl (by decide) (by decide)

theorem txs : Statement .txs := fun _ => of_length (n := 2) rfl (by decide) (by decide)

theorem tys : Statement .tys := fun _ => of_length (n := 2) rfl (by decide) (by decide)

theorem exg (r : Reg) (R : Reg) : Statement (.exg r R) :=
  fun _ => of_length (n := 2) rfl (by decide) (by decide)

theorem xgdx : Statement .xgdx := fun _ => of_length (n := 2) rfl (by decide) (by decide)

theorem xgdy : Statement .xgdy := fun _ => of_length (n := 2) rfl (by decide) (by decide)

theorem sex (r : Reg8) (R : Reg16) : Statement (.sex r R) :=
  fun _ => of_length (n := 2) rfl (by decide) (by decide)

theorem movb (m : Mov 8) : Statement (.movb m) := fun h => by
  have := Mov.length_le (by decide) h
  exact of_length (encodeMovb_length m) (by omega) (by omega)

theorem movw (m : Mov 16) : Statement (.movw m) := fun h => by
  have := Mov.length_le (by decide) h
  exact of_length (encodeMovw_length m) (by omega) (by omega)

theorem psha : Statement .psha := fun _ => of_length (n := 1) rfl (by decide) (by decide)

theorem pshb : Statement .pshb := fun _ => of_length (n := 1) rfl (by decide) (by decide)

theorem pshc : Statement .pshc := fun _ => of_length (n := 1) rfl (by decide) (by decide)

theorem pshd : Statement .pshd := fun _ => of_length (n := 1) rfl (by decide) (by decide)

theorem pshx : Statement .pshx := fun _ => of_length (n := 1) rfl (by decide) (by decide)

theorem pshy : Statement .pshy := fun _ => of_length (n := 1) rfl (by decide) (by decide)

theorem pula : Statement .pula := fun _ => of_length (n := 1) rfl (by decide) (by decide)

theorem pulb : Statement .pulb := fun _ => of_length (n := 1) rfl (by decide) (by decide)

theorem pulc : Statement .pulc := fun _ => of_length (n := 1) rfl (by decide) (by decide)

theorem puld : Statement .puld := fun _ => of_length (n := 1) rfl (by decide) (by decide)

theorem pulx : Statement .pulx := fun _ => of_length (n := 1) rfl (by decide) (by decide)

theorem puly : Statement .puly := fun _ => of_length (n := 1) rfl (by decide) (by decide)

theorem aba : Statement .aba := fun _ => of_length (n := 2) rfl (by decide) (by decide)

theorem abx : Statement .abx := fun _ => of_length (n := 2) rfl (by decide) (by decide)

theorem aby : Statement .aby := fun _ => of_length (n := 2) rfl (by decide) (by decide)

theorem adca (o : Opr 8) : Statement (.adca o) := fun _ => of_opr8 _ _ _ _ o

theorem adcb (o : Opr 8) : Statement (.adcb o) := fun _ => of_opr8 _ _ _ _ o

theorem adda (o : Opr 8) : Statement (.adda o) := fun _ => of_opr8 _ _ _ _ o

theorem addb (o : Opr 8) : Statement (.addb o) := fun _ => of_opr8 _ _ _ _ o

theorem addd (o : Opr 16) : Statement (.addd o) := fun _ => of_opr16 _ _ _ _ o

theorem sba : Statement .sba := fun _ => of_length (n := 2) rfl (by decide) (by decide)

theorem sbca (o : Opr 8) : Statement (.sbca o) := fun _ => of_opr8 _ _ _ _ o

theorem sbcb (o : Opr 8) : Statement (.sbcb o) := fun _ => of_opr8 _ _ _ _ o

theorem suba (o : Opr 8) : Statement (.suba o) := fun _ => of_opr8 _ _ _ _ o

theorem subb (o : Opr 8) : Statement (.subb o) := fun _ => of_opr8 _ _ _ _ o

theorem subd (o : Opr 16) : Statement (.subd o) := fun _ => of_opr16 _ _ _ _ o

theorem daa : Statement .daa := fun _ => of_length (n := 2) rfl (by decide) (by decide)

theorem dec (m : MemX) : Statement (.dec m) := fun _ => of_memX _ _ m

theorem deca : Statement .deca := fun _ => of_length (n := 1) rfl (by decide) (by decide)

theorem decb : Statement .decb := fun _ => of_length (n := 1) rfl (by decide) (by decide)

theorem des : Statement .des := fun _ => of_length (n := 2) rfl (by decide) (by decide)

theorem dex : Statement .dex := fun _ => of_length (n := 1) rfl (by decide) (by decide)

theorem dey : Statement .dey := fun _ => of_length (n := 1) rfl (by decide) (by decide)

theorem inc (m : MemX) : Statement (.inc m) := fun _ => of_memX _ _ m

theorem inca : Statement .inca := fun _ => of_length (n := 1) rfl (by decide) (by decide)

theorem incb : Statement .incb := fun _ => of_length (n := 1) rfl (by decide) (by decide)

theorem ins : Statement .ins := fun _ => of_length (n := 2) rfl (by decide) (by decide)

theorem inx : Statement .inx := fun _ => of_length (n := 1) rfl (by decide) (by decide)

theorem iny : Statement .iny := fun _ => of_length (n := 1) rfl (by decide) (by decide)

theorem cba : Statement .cba := fun _ => of_length (n := 2) rfl (by decide) (by decide)

theorem cmpa (o : Opr 8) : Statement (.cmpa o) := fun _ => of_opr8 _ _ _ _ o

theorem cmpb (o : Opr 8) : Statement (.cmpb o) := fun _ => of_opr8 _ _ _ _ o

theorem cpd (o : Opr 16) : Statement (.cpd o) := fun _ => of_opr16 _ _ _ _ o

theorem cps (o : Opr 16) : Statement (.cps o) := fun _ => of_opr16 _ _ _ _ o

theorem cpx (o : Opr 16) : Statement (.cpx o) := fun _ => of_opr16 _ _ _ _ o

theorem cpy (o : Opr 16) : Statement (.cpy o) := fun _ => of_opr16 _ _ _ _ o

theorem tst (m : MemX) : Statement (.tst m) := fun _ => of_memX _ _ m

theorem tsta : Statement .tsta := fun _ => of_length (n := 1) rfl (by decide) (by decide)

theorem tstb : Statement .tstb := fun _ => of_length (n := 1) rfl (by decide) (by decide)

theorem emul : Statement .emul := fun _ => of_length (n := 1) rfl (by decide) (by decide)

theorem emuls : Statement .emuls := fun _ => of_length (n := 2) rfl (by decide) (by decide)

theorem mul : Statement .mul := fun _ => of_length (n := 1) rfl (by decide) (by decide)

theorem ediv : Statement .ediv := fun _ => of_length (n := 1) rfl (by decide) (by decide)

theorem edivs : Statement .edivs := fun _ => of_length (n := 2) rfl (by decide) (by decide)

theorem fdiv : Statement .fdiv := fun _ => of_length (n := 2) rfl (by decide) (by decide)

theorem idiv : Statement .idiv := fun _ => of_length (n := 2) rfl (by decide) (by decide)

theorem idivs : Statement .idivs := fun _ => of_length (n := 2) rfl (by decide) (by decide)

theorem clc : Statement .clc := fun _ => of_length (n := 2) rfl (by decide) (by decide)

theorem cli : Statement .cli := fun _ => of_length (n := 2) rfl (by decide) (by decide)

theorem clr (m : MemX) : Statement (.clr m) := fun _ => of_memX _ _ m

theorem clra : Statement .clra := fun _ => of_length (n := 1) rfl (by decide) (by decide)

theorem clrb : Statement .clrb := fun _ => of_length (n := 1) rfl (by decide) (by decide)

theorem clv : Statement .clv := fun _ => of_length (n := 2) rfl (by decide) (by decide)

theorem com (m : MemX) : Statement (.com m) := fun _ => of_memX _ _ m

theorem coma : Statement .coma := fun _ => of_length (n := 1) rfl (by decide) (by decide)

theorem comb : Statement .comb := fun _ => of_length (n := 1) rfl (by decide) (by decide)

theorem neg (m : MemX) : Statement (.neg m) := fun _ => of_memX _ _ m

theorem nega : Statement .nega := fun _ => of_length (n := 1) rfl (by decide) (by decide)

theorem negb : Statement .negb := fun _ => of_length (n := 1) rfl (by decide) (by decide)

theorem bra (rr : Byte) : Statement (.bra rr) :=
  fun _ => of_length (n := 2) rfl (by decide) (by decide)

theorem brn (rr : Byte) : Statement (.brn rr) :=
  fun _ => of_length (n := 2) rfl (by decide) (by decide)

theorem bcc (rr : Byte) : Statement (.bcc rr) :=
  fun _ => of_length (n := 2) rfl (by decide) (by decide)

theorem bcs (rr : Byte) : Statement (.bcs rr) :=
  fun _ => of_length (n := 2) rfl (by decide) (by decide)

theorem beq (rr : Byte) : Statement (.beq rr) :=
  fun _ => of_length (n := 2) rfl (by decide) (by decide)

theorem bmi (rr : Byte) : Statement (.bmi rr) :=
  fun _ => of_length (n := 2) rfl (by decide) (by decide)

theorem bne (rr : Byte) : Statement (.bne rr) :=
  fun _ => of_length (n := 2) rfl (by decide) (by decide)

theorem bpl (rr : Byte) : Statement (.bpl rr) :=
  fun _ => of_length (n := 2) rfl (by decide) (by decide)

theorem bvc (rr : Byte) : Statement (.bvc rr) :=
  fun _ => of_length (n := 2) rfl (by decide) (by decide)

theorem bvs (rr : Byte) : Statement (.bvs rr) :=
  fun _ => of_length (n := 2) rfl (by decide) (by decide)

theorem bhi (rr : Byte) : Statement (.bhi rr) :=
  fun _ => of_length (n := 2) rfl (by decide) (by decide)

theorem bhs (rr : Byte) : Statement (.bhs rr) :=
  fun _ => of_length (n := 2) rfl (by decide) (by decide)

theorem blo (rr : Byte) : Statement (.blo rr) :=
  fun _ => of_length (n := 2) rfl (by decide) (by decide)

theorem bls (rr : Byte) : Statement (.bls rr) :=
  fun _ => of_length (n := 2) rfl (by decide) (by decide)

theorem bge (rr : Byte) : Statement (.bge rr) :=
  fun _ => of_length (n := 2) rfl (by decide) (by decide)

theorem bgt (rr : Byte) : Statement (.bgt rr) :=
  fun _ => of_length (n := 2) rfl (by decide) (by decide)

theorem ble (rr : Byte) : Statement (.ble rr) :=
  fun _ => of_length (n := 2) rfl (by decide) (by decide)

theorem blt (rr : Byte) : Statement (.blt rr) :=
  fun _ => of_length (n := 2) rfl (by decide) (by decide)

theorem lbra (qr : Word) : Statement (.lbra qr) :=
  fun _ => of_length (n := 4) rfl (by decide) (by decide)

theorem lbrn (qr : Word) : Statement (.lbrn qr) :=
  fun _ => of_length (n := 4) rfl (by decide) (by decide)

theorem lbcc (qr : Word) : Statement (.lbcc qr) :=
  fun _ => of_length (n := 4) rfl (by decide) (by decide)

theorem lbcs (qr : Word) : Statement (.lbcs qr) :=
  fun _ => of_length (n := 4) rfl (by decide) (by decide)

theorem lbeq (qr : Word) : Statement (.lbeq qr) :=
  fun _ => of_length (n := 4) rfl (by decide) (by decide)

theorem lbmi (qr : Word) : Statement (.lbmi qr) :=
  fun _ => of_length (n := 4) rfl (by decide) (by decide)

theorem lbne (qr : Word) : Statement (.lbne qr) :=
  fun _ => of_length (n := 4) rfl (by decide) (by decide)

theorem lbpl (qr : Word) : Statement (.lbpl qr) :=
  fun _ => of_length (n := 4) rfl (by decide) (by decide)

theorem lbvc (qr : Word) : Statement (.lbvc qr) :=
  fun _ => of_length (n := 4) rfl (by decide) (by decide)

theorem lbvs (qr : Word) : Statement (.lbvs qr) :=
  fun _ => of_length (n := 4) rfl (by decide) (by decide)

theorem lbhi (qr : Word) : Statement (.lbhi qr) :=
  fun _ => of_length (n := 4) rfl (by decide) (by decide)

theorem lbhs (qr : Word) : Statement (.lbhs qr) :=
  fun _ => of_length (n := 4) rfl (by decide) (by decide)

theorem lblo (qr : Word) : Statement (.lblo qr) :=
  fun _ => of_length (n := 4) rfl (by decide) (by decide)

theorem lbls (qr : Word) : Statement (.lbls qr) :=
  fun _ => of_length (n := 4) rfl (by decide) (by decide)

theorem lbge (qr : Word) : Statement (.lbge qr) :=
  fun _ => of_length (n := 4) rfl (by decide) (by decide)

theorem lbgt (qr : Word) : Statement (.lbgt qr) :=
  fun _ => of_length (n := 4) rfl (by decide) (by decide)

theorem lble (qr : Word) : Statement (.lble qr) :=
  fun _ => of_length (n := 4) rfl (by decide) (by decide)

theorem lblt (qr : Word) : Statement (.lblt qr) :=
  fun _ => of_length (n := 4) rfl (by decide) (by decide)

theorem brclr (m : Mem) (mm : Byte) (rr : Byte) : Statement (.brclr m mm rr) :=
  fun _ => of_append _ _ _ m [mm, rr] (by simp)

theorem brset (m : Mem) (mm : Byte) (rr : Byte) : Statement (.brset m mm rr) :=
  fun _ => of_append _ _ _ m [mm, rr] (by simp)

theorem dbeq (c : Counter) (rel : BitVec 9) : Statement (.dbeq c rel) :=
  fun _ => of_length (n := 3) rfl (by decide) (by decide)

theorem dbne (c : Counter) (rel : BitVec 9) : Statement (.dbne c rel) :=
  fun _ => of_length (n := 3) rfl (by decide) (by decide)

theorem ibeq (c : Counter) (rel : BitVec 9) : Statement (.ibeq c rel) :=
  fun _ => of_length (n := 3) rfl (by decide) (by decide)

theorem ibne (c : Counter) (rel : BitVec 9) : Statement (.ibne c rel) :=
  fun _ => of_length (n := 3) rfl (by decide) (by decide)

theorem tbeq (c : Counter) (rel : BitVec 9) : Statement (.tbeq c rel) :=
  fun _ => of_length (n := 3) rfl (by decide) (by decide)

theorem tbne (c : Counter) (rel : BitVec 9) : Statement (.tbne c rel) :=
  fun _ => of_length (n := 3) rfl (by decide) (by decide)

theorem anda (o : Opr 8) : Statement (.anda o) := fun _ => of_opr8 _ _ _ _ o

theorem andb (o : Opr 8) : Statement (.andb o) := fun _ => of_opr8 _ _ _ _ o

theorem andcc (ii : Byte) : Statement (.andcc ii) :=
  fun _ => of_length (n := 2) rfl (by decide) (by decide)

theorem eora (o : Opr 8) : Statement (.eora o) := fun _ => of_opr8 _ _ _ _ o

theorem eorb (o : Opr 8) : Statement (.eorb o) := fun _ => of_opr8 _ _ _ _ o

theorem oraa (o : Opr 8) : Statement (.oraa o) := fun _ => of_opr8 _ _ _ _ o

theorem orab (o : Opr 8) : Statement (.orab o) := fun _ => of_opr8 _ _ _ _ o

theorem orcc (ii : Byte) : Statement (.orcc ii) :=
  fun _ => of_length (n := 2) rfl (by decide) (by decide)

theorem bclr (m : Mem) (mm : Byte) : Statement (.bclr m mm) :=
  fun _ => of_append _ _ _ m [mm] (by simp)

theorem bita (o : Opr 8) : Statement (.bita o) := fun _ => of_opr8 _ _ _ _ o

theorem bitb (o : Opr 8) : Statement (.bitb o) := fun _ => of_opr8 _ _ _ _ o

theorem bset (m : Mem) (mm : Byte) : Statement (.bset m mm) :=
  fun _ => of_append _ _ _ m [mm] (by simp)

theorem lsl (m : MemX) : Statement (.lsl m) := fun _ => of_memX _ _ m

theorem lsla : Statement .lsla := fun _ => of_length (n := 1) rfl (by decide) (by decide)

theorem lslb : Statement .lslb := fun _ => of_length (n := 1) rfl (by decide) (by decide)

theorem lsld : Statement .lsld := fun _ => of_length (n := 1) rfl (by decide) (by decide)

theorem lsr (m : MemX) : Statement (.lsr m) := fun _ => of_memX _ _ m

theorem lsra : Statement .lsra := fun _ => of_length (n := 1) rfl (by decide) (by decide)

theorem lsrb : Statement .lsrb := fun _ => of_length (n := 1) rfl (by decide) (by decide)

theorem lsrd : Statement .lsrd := fun _ => of_length (n := 1) rfl (by decide) (by decide)

theorem asl (m : MemX) : Statement (.asl m) := fun _ => of_memX _ _ m

theorem asla : Statement .asla := fun _ => of_length (n := 1) rfl (by decide) (by decide)

theorem aslb : Statement .aslb := fun _ => of_length (n := 1) rfl (by decide) (by decide)

theorem asld : Statement .asld := fun _ => of_length (n := 1) rfl (by decide) (by decide)

theorem asr (m : MemX) : Statement (.asr m) := fun _ => of_memX _ _ m

theorem asra : Statement .asra := fun _ => of_length (n := 1) rfl (by decide) (by decide)

theorem asrb : Statement .asrb := fun _ => of_length (n := 1) rfl (by decide) (by decide)

theorem rol (m : MemX) : Statement (.rol m) := fun _ => of_memX _ _ m

theorem rola : Statement .rola := fun _ => of_length (n := 1) rfl (by decide) (by decide)

theorem rolb : Statement .rolb := fun _ => of_length (n := 1) rfl (by decide) (by decide)

theorem ror (m : MemX) : Statement (.ror m) := fun _ => of_memX _ _ m

theorem rora : Statement .rora := fun _ => of_length (n := 1) rfl (by decide) (by decide)

theorem rorb : Statement .rorb := fun _ => of_length (n := 1) rfl (by decide) (by decide)

end EncodedLength

end Laws

end Sys2Proof
end

