-- ==== Sys2Proof/Laws/Runs.lean ====
section
/-! SUPPORT. How an instruction of each shape runs: from the operand's value or address to the state it
leaves, and what a store leaves unchanged. -/

namespace Sys2Proof.Machine

/-! ### What a store leaves -/

/-- Equal memory reads alike. -/
theorem sameMem_of_eq {s t : State} (hl : t.launch = s.launch) (hm : t.mem = s.mem) :
    SameMemOutside [] s t := fun _ _ => readByte_of_mem hl hm

/-- A byte store changes its byte alone. -/
theorem sameMem_of_memSet {s t : State} {a : Word} {v : Byte} (hl : t.launch = s.launch)
    (hm : t.mem = memSet s.mem a.toNat v) : SameMemOutside [a] s t := by
  intro b hb
  refine readByte_congr hl ?_
  rw [hm]
  exact memGet_memSet_other _ _ _ _ (toNat_ne_of_ne (by simpa using hb))

/-- Two byte stores change their bytes alone. -/
theorem sameMem_of_memSet2 {s t : State} {a b : Word} {v w : Byte} (hl : t.launch = s.launch)
    (hm : t.mem = memSet (memSet s.mem a.toNat v) b.toNat w) : SameMemOutside [a, b] s t := by
  intro c hc
  simp only [List.mem_cons, List.not_mem_nil, or_false, not_or] at hc
  refine readByte_congr hl ?_
  rw [hm, memGet_memSet_other _ _ _ _ (toNat_ne_of_ne hc.2),
    memGet_memSet_other _ _ _ _ (toNat_ne_of_ne hc.1)]

/-- The stored byte can be read. -/
theorem hasByte_of_memSet {s t : State} {a : Word} {v : Byte} (hc : CanStore s a)
    (hl : t.launch = s.launch) (hm : t.mem = memSet s.mem a.toNat v) : HasByte t a v := by
  refine ⟨Or.inl (by rw [hl]; exact hc.1), ?_⟩
  rw [hm]
  exact memGet_memSet_same _ _ _

/-- The stored word can be read. -/
theorem hasWord_of_memSet {s t : State} {a w : Word} (hc : CanStoreWord s a)
    (hl : t.launch = s.launch)
    (hm : t.mem = memSet (memSet s.mem a.toNat (hiByte w)) (a + 1).toNat (loByte w)) :
    HasWord t a w := by
  refine ⟨⟨Or.inl (by rw [hl]; exact hc.1.1), ?_⟩, ⟨Or.inl (by rw [hl]; exact hc.2.1), ?_⟩⟩
  · rw [hm, memGet_memSet_other _ _ _ _ (toNat_ne_of_ne (succ_ne a).symm), memGet_memSet_same]
  · rw [hm, memGet_memSet_same]

/-- What can be read or stored does not depend on the registers. -/
theorem hasByte_congr {s t : State} {a : Word} {v : Byte} (hl : t.launch = s.launch)
    (hm : t.mem = s.mem) : HasByte t a v ↔ HasByte s a v := by unfold HasByte; rw [hl, hm]

theorem hasWord_congr {s t : State} {a w : Word} (hl : t.launch = s.launch)
    (hm : t.mem = s.mem) : HasWord t a w ↔ HasWord s a w :=
  and_congr (hasByte_congr hl hm) (hasByte_congr hl hm)

theorem canStore_congr {s t : State} {a : Word} (hl : t.launch = s.launch) :
    CanStore t a ↔ CanStore s a := by unfold CanStore; rw [hl]

theorem canStoreWord_congr {s t : State} {a : Word} (hl : t.launch = s.launch) :
    CanStoreWord t a ↔ CanStoreWord s a := and_congr (canStore_congr hl) (canStore_congr hl)

/-! ### Running -/

theorem runs_done {i : Instr} {len : Nat} {s s1 : State} {p : State → Prop}
    (hi : exec i s = Res.done len s1) (hp : p (s1.advance len)) : Runs i s p := ⟨_, hi, hp⟩

/-- An instruction whose operand changes no data register of it. -/
theorem unlessAutoBase_of_ne {r : AutoBase} {b : Option AutoBase} {go : Res State}
    (h : b ≠ some r) : unlessAutoBase r b go = go := if_neg h

theorem runs_withOperand8 {i : Instr} {o : Opr 8} {f : Byte → State → State} {s s1 : State}
    {m : Byte} {p : State → Prop}
    (h : operand8 (s.nextPc (1 + o.length)) o s = .next (m, s1))
    (hi : exec i s = withOperand8 o s f)
    (hp : p ((f m (Opr.after o s)).advance (1 + o.length))) : Runs i s p := by
  have e := operand8_state h
  subst e
  exact ⟨_, hi.trans (withOperand8_eq_next.mpr ⟨m, _, h, rfl⟩), hp⟩

theorem runs_withOperand16 {i : Instr} {o : Opr 16} {f : Word → State → State} {s s1 : State}
    {m : Word} {p : State → Prop}
    (h : operand16 (s.nextPc (1 + o.length)) o s = .next (m, s1))
    (hi : exec i s = withOperand16 o s f)
    (hp : p ((f m (Opr.after o s)).advance (1 + o.length))) : Runs i s p := by
  have e := operand16_state h
  subst e
  exact ⟨_, hi.trans (withOperand16_eq_next.mpr ⟨m, _, h, rfl⟩), hp⟩

theorem runs_storeByte {i : Instr} {m : Mem} {v : Byte} {ea : Word} {s s1 : State}
    {p : State → Prop} (h : memAddress .all (s.nextPc (1 + m.length)) m s = .next (ea, s1))
    (hc : CanStore s ea) (hi : exec i s = storeByte m v s)
    (hp : p ((((Mem.after m s).setMem (memSet s.mem ea.toNat v)).setFlags (nzv0 v)).advance
      (1 + m.length))) : Runs i s p := by
  have e := memAddress_state h
  subst e
  refine ⟨_, hi.trans (storeByte_eq_next.mpr ⟨ea, _, _, h, writeByte_eq_next.mpr
    ⟨(canStore_congr (by simp)).mpr hc, rfl⟩, rfl⟩), ?_⟩
  simpa using hp

theorem runs_storeWord {i : Instr} {m : Mem} {v ea : Word} {s s1 : State}
    {p : State → Prop} (h : memAddress .all (s.nextPc (1 + m.length)) m s = .next (ea, s1))
    (hc : CanStoreWord s ea) (hi : exec i s = storeWord m v s)
    (hp : p ((((Mem.after m s).setMem
      (memSet (memSet s.mem ea.toNat (hiByte v)) (ea + 1).toNat (loByte v))).setFlags
      (nzv0 v)).advance (1 + m.length))) : Runs i s p := by
  have e := memAddress_state h
  subst e
  refine ⟨_, hi.trans (storeWord_eq_next.mpr ⟨ea, _, _, h, writeWord_eq_next.mpr
    ⟨(canStoreWord_congr (by simp)).mpr hc, rfl⟩, rfl⟩), ?_⟩
  simpa using hp

theorem runs_modifyByte {c : IdxClass} {i : Instr} {m : Mem} {len : Nat}
    {f : Bool → Byte → Byte × FlagUpdate} {ea : Word} {v : Byte} {s s1 : State}
    {p : State → Prop} (h : memAddress c (s.nextPc len) m s = .next (ea, s1))
    (hv : HasByte s ea v) (hc : CanStore s ea) (hi : exec i s = modifyByte c m len f s)
    (hp : p ((((Mem.after m s).setMem (memSet s.mem ea.toNat (f s.flagC v).1)).setFlags
      (f s.flagC v).2).advance len)) : Runs i s p := by
  have e := memAddress_state h
  subst e
  refine ⟨_, hi.trans (modifyByte_eq_next.mpr ⟨ea, _, v, _, h,
    (hasByte_congr (by simp) (by simp)).mpr hv,
    writeByte_eq_next.mpr ⟨(canStore_congr (by simp)).mpr hc, rfl⟩, rfl⟩), ?_⟩
  simpa using hp

theorem runs_modifyMem {i : Instr} {m : MemX} {f : Bool → Byte → Byte × FlagUpdate} {ea : Word}
    {v : Byte} {s s1 : State} {p : State → Prop}
    (h : memAddress .all (s.nextPc (1 + m.toMem.length)) m.toMem s = .next (ea, s1))
    (hv : HasByte s ea v) (hc : CanStore s ea) (hi : exec i s = modifyMem m f s)
    (hp : p ((((Mem.after m.toMem s).setMem (memSet s.mem ea.toNat (f s.flagC v).1)).setFlags
      (f s.flagC v).2).advance (1 + m.toMem.length))) : Runs i s p :=
  runs_modifyByte h hv hc hi hp

/-- A branch goes where its condition says (R301). -/
theorem goes_of_branchIf {i : Instr} {len : Nat} {rel : Word} {s : State} {p : Prop} {b : Bool}
    (hi : exec i s = branchIf b len rel s) (hb : b = true ↔ p) : Goes i len rel s p := by
  refine ⟨_, hi.trans (branchIf_eq_next.mpr rfl), ⟨?_, ?_, ?_⟩, ?_, ?_⟩
  · intro q hq hpc
    cases b <;> cases q <;> simp_all [Part.same]
  · exact sameMem_of_eq (by cases b <;> simp) (by cases b <;> simp)
  · cases b <;> simp
  · intro h
    rw [if_pos (hb.mpr h)]
    simp
    ac_rfl
  · intro h
    have : ¬ b = true := fun e => h (hb.mp e)
    rw [if_neg this]
    simp [Past]

end Sys2Proof.Machine
end

