-- ==== Sys2Proof/Laws/Step.lean ====
section
/-! SUPPORT. The fetch, and the operations of an exception: what each can answer. -/

namespace Sys2Proof.Machine

/-! ### The fetch -/

/-- The decoder reads a byte exactly where it stands as readable program text (R58, R65). -/
theorem fetchByte_eq_next {a : Word} {s : State} {v : Byte} :
    fetchByte a s = .next v ↔ HasByte s a v ∧ s.launch.isText a = true := by
  unfold fetchByte
  split
  · next h => simp [readByte_eq_next, h]
  · next h => simp [h]

/-- The bytes fetched begin with the bytes that stand at the address as program text, and with no
others. -/
theorem fetchBytes_eq_append {bs : List Byte} {a : Word} {s : State} {n : Nat} :
    (∃ rest, fetchBytes n a s = bs ++ rest) ↔ bs = [] ∨ (bs.length ≤ n ∧ Placed bs a s) := by
  induction bs generalizing a n with
  | nil => simp
  | cons v bs ih =>
    cases n with
    | zero => simp [fetchBytes]
    | succ n =>
      have hv := fetchByte_eq_next (a := a) (s := s) (v := v)
      have hr := ih (a := a + 1) (n := n)
      have hn : bs = [] ∨ (bs.length ≤ n ∧ Placed bs (a + 1) s) ↔
          bs.length ≤ n ∧ Placed bs (a + 1) s := by
        cases bs <;> simp [Placed]
      rw [hn] at hr
      simp only [fetchBytes, Placed, List.length_cons, ← hv, reduceCtorEq, false_or,
        Nat.add_le_add_iff_right]
      cases hf : fetchByte a s <;> simp only [List.cons_append, List.cons.injEq, reduceCtorEq,
        exists_false, false_and, and_false, Host.Outcome.next.injEq, exists_and_left, hr]
      constructor
      · rintro ⟨h1, h2, h3⟩
        exact ⟨h2, h1, h3⟩
      · rintro ⟨h2, h1, h3⟩
        exact ⟨h1, h2, h3⟩

/-- The fetch gets the bytes that stand at the program counter as program text. -/
theorem fetchBytes_of_placed {bs : List Byte} {a : Word} {s : State} {n : Nat}
    (h : Placed bs a s) (hn : bs.length ≤ n) : ∃ rest, fetchBytes n a s = bs ++ rest :=
  fetchBytes_eq_append.mpr (Or.inr ⟨hn, h⟩)

/-- The instruction fetched is the one that the bytes at the program counter decode to. -/
theorem fetchInstr_eq_next {s : State} {i : Instr} :
    fetchInstr s = .next i ↔ ∃ rest, decode (fetchBytes 6 s.pc s) = .ok (i, rest) := by
  unfold fetchInstr
  simp only
  split
  · next j rest hd => simp [hd]
  · next hd => simp [hd, andThen_eq_next]
  · next e _ hd => simp [hd]

/-- A step answers a state exactly where the run does not end and the instruction fetched answers it
(R433, R435). -/
theorem step_eq_next {s t : State} :
    step s = .next t ↔
      s.launch.endPc ≠ some s.pc ∧ ∃ i, fetchInstr s = .next i ∧ exec i s = .next t := by
  unfold step
  split
  · next h => simp [h]
  · next h => simp [h, andThen_eq_next]

/-! ### Exceptions (R406, R407) -/

/-- The nine bytes of an exception entry are stored one below the other. -/
theorem stackRegisters_eq_next {returnTo : Word} {s t : State} :
    stackRegisters returnTo s = .next t ↔
      ∃ s1 s2 s3 s4, pushWord returnTo s = .next s1 ∧ pushWord s1.y s1 = .next s2 ∧
        pushWord s2.x s2 = .next s3 ∧ pushWord (mkWord s3.b s3.a) s3 = .next s4 ∧
        pushByte s4.ccr s4 = .next t := by
  simp only [stackRegisters, andThen_eq_next]
  constructor
  · rintro ⟨s1, h1, s2, h2, s3, h3, s4, h4, h5⟩
    exact ⟨s1, s2, s3, s4, h1, h2, h3, h4, h5⟩
  · rintro ⟨s1, s2, s3, s4, h1, h2, h3, h4, h5⟩
    exact ⟨s1, h1, s2, h2, s3, h3, s4, h4, h5⟩

/-- An exception is taken exactly where the registers can be stacked and the vector can be read. -/
theorem takeException_eq_next {e : ExceptionSource} {returnTo : Word} {s t : State} :
    takeException e returnTo s = .next t ↔
      ∃ s1 target, stackRegisters returnTo s = .next s1 ∧ HasWord s1 e.vector target ∧
        t = (s1.setCcr (s1.ccr ||| (if e = .xirq then 0b01010000#8 else 0b00010000#8))).setPc
          target := by
  simp only [takeException, andThen_eq_next, readWord_eq_next]
  constructor
  · rintro ⟨s1, h1, target, h2, h3⟩
    cases h3
    exact ⟨s1, target, h1, (hasWord_congr rfl rfl).mp h2, rfl⟩
  · rintro ⟨s1, target, h1, h2, rfl⟩
    exact ⟨s1, h1, target, (hasWord_congr rfl rfl).mpr h2, rfl⟩

/-- A reset sets S, X and I (R42, R430). -/
theorem State.resetRegisters_masks (s : State) :
    s.resetRegisters.flagS = true ∧ s.resetRegisters.flagX = true ∧ s.resetRegisters.flagI = true := by
  simp [State.flagS, State.flagX, State.flagI, State.resetRegisters]

/-- A reset answers a state exactly where the vector can be read once RAM is forgotten (R42, R406). -/
theorem takeReset_eq_next {e : ExceptionSource} {s t : State} :
    takeReset e s = .next t ↔
      ∃ target, HasWord (s.resetRegisters.setMem (forgetRam s.launch s.mem)) e.vector target ∧
        t = (s.resetRegisters.setMem (forgetRam s.launch s.mem)).setPc target := by
  simp only [takeReset, andThen_eq_next, readWord_eq_next, Host.Outcome.next.injEq,
    eq_comm (a := t)]

/-- A run of one step more. -/
theorem coreRun_succ (M : Host.Core) (k : Nat) (s : M.State) :
    M.run (k + 1) s =
      match M.step s with
      | .next t => M.run k t
      | .fault r => .fault r
      | .refused r => .refused r := rfl

/-- At an instruction boundary with no request pending the machine takes its step (R403). -/
@[simp] theorem stepUnder_nil (promoted : Option (Fin 57)) (s : State) :
    stepUnder promoted [] s = step s := by
  unfold stepUnder step
  split <;> rfl

/-- The return from an exception answers a state exactly where the nine bytes at SP can be read. -/
theorem returnFromException_eq_next {s t : State} :
    returnFromException s = .next t ↔
      ∃ ccr ba x y target s1 s2 s3 s4 s5, pullByte s = .next (ccr, s1) ∧
        pullWord (s1.writeCcr ccr) = .next (ba, s2) ∧
        pullWord ((s2.setB (hiByte ba)).setA (loByte ba)) = .next (x, s3) ∧
        pullWord (s3.setX x) = .next (y, s4) ∧ pullWord (s4.setY y) = .next (target, s5) ∧
        t = s5.setPc target := by
  simp only [returnFromException, andThen_eq_next, Prod.exists]
  constructor
  · rintro ⟨ccr, s1, h1, ba, s2, h2, x, s3, h3, y, s4, h4, target, s5, h5, h6⟩
    cases h6
    exact ⟨ccr, ba, x, y, target, s1, s2, s3, s4, s5, h1, h2, h3, h4, h5, rfl⟩
  · rintro ⟨ccr, ba, x, y, target, s1, s2, s3, s4, s5, h1, h2, h3, h4, h5, rfl⟩
    exact ⟨ccr, s1, h1, ba, s2, h2, x, s3, h3, y, s4, h4, target, s5, h5, rfl⟩

end Sys2Proof.Machine
end

