-- ==== Sys2Proof/Tests/Slice0.lean ====
section
/-! SUPPORT. The model's own tests: ill-formed terms that `WellFormed` refuses, words written out from
the encodings of spec 30_encoding.md and opcode_table.json, one-step runs with the results that spec
95_test_vectors.md gives, and for each obligation with hypotheses a state and operands that meet
them. -/

open Sys2Proof Sys2Proof.Machine

namespace Sys2Proof.Tests

/-! ### Well-formed terms -/

theorem test_leas_indirect_is_ill_formed : ¬ (Instr.leas (.indD .x)).WellFormed := by decide
theorem test_leax_indirect_is_ill_formed : ¬ (Instr.leax (.ind16 .y 2)).WellFormed := by decide
theorem test_leay_indirect_is_ill_formed : ¬ (Instr.leay (.indD .sp)).WellFormed := by decide
theorem test_bset_indirect_is_ill_formed : ¬ (Instr.bset (.idx (.indD .x)) 1).WellFormed := by
  decide
theorem test_bclr_indirect_is_ill_formed : ¬ (Instr.bclr (.idx (.ind16 .x 0)) 1).WellFormed := by
  decide
theorem test_brset_indirect_is_ill_formed :
    ¬ (Instr.brset (.idx (.indD .y)) 1 2).WellFormed := by decide
theorem test_brclr_indirect_is_ill_formed :
    ¬ (Instr.brclr (.idx (.ind16 .y 0)) 1 2).WellFormed := by decide
theorem test_movb_long_source_is_ill_formed :
    ¬ (Instr.movb (.idEx (.off9 .x 0) 0x0900)).WellFormed := by decide
theorem test_movb_long_destination_is_ill_formed :
    ¬ (Instr.movb (.imId 1 (.off16 .x 0))).WellFormed := by decide
theorem test_movw_indirect_is_ill_formed :
    ¬ (Instr.movw (.exId 0x0900 (.indD .x))).WellFormed := by decide
theorem test_movw_two_postbytes_are_checked :
    ¬ (Instr.movw (.idId (.off5 .x 0) (.off9 .y 0))).WellFormed ∧
    ¬ (Instr.movw (.idId (.off9 .x 0) (.off5 .y 0))).WellFormed := by decide
theorem test_exg_of_two_widths_is_ill_formed :
    ¬ (Instr.exg (.r8 .a) (.r16 .x)).WellFormed ∧
    ¬ (Instr.exg (.r16 .d) (.r8 .ccr)).WellFormed := by decide
theorem test_longest_operands_are_well_formed :
    (Instr.brset (.idx (.off16 .sp 1)) 1 2).WellFormed ∧
    (Instr.ldaa (.mem (.idx (.indD .pc)))).WellFormed := by decide

/-! ### Words written out from the encoding (R74, R82 to R96, and the rows of opcode_table.json)

The words of LSL, LSLA, LSLB, LSLD, BHS, BLO, LBHS and LBLO are those of ASL, ASLA, ASLB, ASLD, BCC, BCS,
LBCC and LBCS (R96), and are read under these names. -/

theorem test_decode_loads_and_stores :
    decode [0x86, 0x5A] = .ok (.ldaa (.imm 0x5A), []) ∧
    decode [0xD6, 0x50] = .ok (.ldab (.mem (.dir 0x50)), []) ∧
    decode [0xFC, 0x09, 0x01] = .ok (.ldd (.mem (.ext 0x0901)), []) ∧
    decode [0xEF, 0x47] = .ok (.lds (.mem (.idx (.off5 .y 7))), []) ∧
    decode [0xCE, 0x12, 0x34] = .ok (.ldx (.imm 0x1234), []) ∧
    decode [0xDD, 0x50] = .ok (.ldy (.mem (.dir 0x50)), []) ∧
    decode [0x1B, 0x47] = .ok (.leas (.off5 .y 7), []) ∧
    decode [0x1A, 0x1F] = .ok (.leax (.off5 .x (-1)), []) ∧
    decode [0x19, 0xAE] = .ok (.leay (.auto .sp false 14), []) ∧
    decode [0x5A, 0x50] = .ok (.staa (.dir 0x50), []) ∧
    decode [0x7B, 0x09, 0x01] = .ok (.stab (.ext 0x0901), []) ∧
    decode [0x6C, 0x1F] = .ok (.std (.idx (.off5 .x (-1))), []) ∧
    decode [0x5F, 0x50] = .ok (.sts (.dir 0x50), []) ∧
    decode [0x7E, 0x09, 0x01] = .ok (.stx (.ext 0x0901), []) ∧
    decode [0x6D, 0xAE] = .ok (.sty (.idx (.auto .sp false 14)), []) :=
  ⟨rfl, rfl, rfl, rfl, rfl, rfl, rfl, rfl, rfl, rfl, rfl, rfl, rfl, rfl, rfl⟩

theorem test_decode_transfers_and_stack :
    decode [0x18, 0x0E] = .ok (.tab, []) ∧
    decode [0xB7, 0x02] = .ok (.tap, []) ∧
    decode [0x18, 0x0F] = .ok (.tba, []) ∧
    decode [0xB7, 0x51] = .ok (.tfr (.r16 .x) (.r8 .b), []) ∧
    decode [0xB7, 0x20] = .ok (.tpa, []) ∧
    decode [0xB7, 0x75] = .ok (.tsx, []) ∧
    decode [0xB7, 0x76] = .ok (.tsy, []) ∧
    decode [0xB7, 0x57] = .ok (.txs, []) ∧
    decode [0xB7, 0x67] = .ok (.tys, []) ∧
    decode [0xB7, 0xD6] = .ok (.exg (.r16 .x) (.r16 .y), []) ∧
    decode [0xB7, 0xC5] = .ok (.xgdx, []) ∧
    decode [0xB7, 0xC6] = .ok (.xgdy, []) ∧
    decode [0xB7, 0x14] = .ok (.sex .b .d, []) ∧
    decode [0x36] = .ok (.psha, []) ∧
    decode [0x37] = .ok (.pshb, []) ∧
    decode [0x39] = .ok (.pshc, []) ∧
    decode [0x3B] = .ok (.pshd, []) ∧
    decode [0x34] = .ok (.pshx, []) ∧
    decode [0x35] = .ok (.pshy, []) ∧
    decode [0x32] = .ok (.pula, []) ∧
    decode [0x33] = .ok (.pulb, []) ∧
    decode [0x38] = .ok (.pulc, []) ∧
    decode [0x3A] = .ok (.puld, []) ∧
    decode [0x30] = .ok (.pulx, []) ∧
    decode [0x31] = .ok (.puly, []) :=
  ⟨rfl, rfl, rfl, rfl, rfl, rfl, rfl, rfl, rfl, rfl, rfl, rfl, rfl, rfl, rfl, rfl, rfl, rfl,
    rfl, rfl, rfl, rfl, rfl, rfl, rfl⟩

theorem test_decode_additions_and_subtractions :
    decode [0x18, 0x06] = .ok (.aba, []) ∧
    decode [0x1A, 0xE5] = .ok (.abx, []) ∧
    decode [0x19, 0xED] = .ok (.aby, []) ∧
    decode [0x99, 0x50] = .ok (.adca (.mem (.dir 0x50)), []) ∧
    decode [0xF9, 0x09, 0x01] = .ok (.adcb (.mem (.ext 0x0901)), []) ∧
    decode [0xAB, 0x30] = .ok (.adda (.mem (.idx (.auto .x true 0))), []) ∧
    decode [0xCB, 0x5A] = .ok (.addb (.imm 0x5A), []) ∧
    decode [0xD3, 0x50] = .ok (.addd (.mem (.dir 0x50)), []) ∧
    decode [0x18, 0x16] = .ok (.sba, []) ∧
    decode [0xA2, 0xE9, 0x80] = .ok (.sbca (.mem (.idx (.off9 .y (-128)))), []) ∧
    decode [0xC2, 0x5A] = .ok (.sbcb (.imm 0x5A), []) ∧
    decode [0x90, 0x50] = .ok (.suba (.mem (.dir 0x50)), []) ∧
    decode [0xF0, 0x09, 0x01] = .ok (.subb (.mem (.ext 0x0901)), []) ∧
    decode [0xA3, 0xE2, 0x01, 0x00] = .ok (.subd (.mem (.idx (.off16 .x 0x0100))), []) ∧
    decode [0x18, 0x07] = .ok (.daa, []) ∧
    decode [0x63, 0xF3, 0x12, 0x34] = .ok (.dec (.idx (.ind16 .sp 0x1234)), []) ∧
    decode [0x43] = .ok (.deca, []) ∧
    decode [0x53] = .ok (.decb, []) ∧
    decode [0x1B, 0x9F] = .ok (.des, []) ∧
    decode [0x09] = .ok (.dex, []) ∧
    decode [0x03] = .ok (.dey, []) ∧
    decode [0x72, 0x09, 0x01] = .ok (.inc (.ext 0x0901), []) ∧
    decode [0x42] = .ok (.inca, []) ∧
    decode [0x52] = .ok (.incb, []) ∧
    decode [0x1B, 0x81] = .ok (.ins, []) ∧
    decode [0x08] = .ok (.inx, []) ∧
    decode [0x02] = .ok (.iny, []) :=
  ⟨rfl, rfl, rfl, rfl, rfl, rfl, rfl, rfl, rfl, rfl, rfl, rfl, rfl, rfl, rfl, rfl, rfl, rfl,
    rfl, rfl, rfl, rfl, rfl, rfl, rfl, rfl, rfl⟩

theorem test_decode_compares_and_products :
    decode [0x18, 0x17] = .ok (.cba, []) ∧
    decode [0x81, 0x5A] = .ok (.cmpa (.imm 0x5A), []) ∧
    decode [0xD1, 0x50] = .ok (.cmpb (.mem (.dir 0x50)), []) ∧
    decode [0xBC, 0x09, 0x01] = .ok (.cpd (.mem (.ext 0x0901)), []) ∧
    decode [0xAF, 0xE6] = .ok (.cps (.mem (.idx (.acc .x .d))), []) ∧
    decode [0x8E, 0x12, 0x34] = .ok (.cpx (.imm 0x1234), []) ∧
    decode [0x9D, 0x50] = .ok (.cpy (.mem (.dir 0x50)), []) ∧
    decode [0xF7, 0x09, 0x01] = .ok (.tst (.ext 0x0901), []) ∧
    decode [0x97] = .ok (.tsta, []) ∧
    decode [0xD7] = .ok (.tstb, []) ∧
    decode [0x13] = .ok (.emul, []) ∧
    decode [0x18, 0x13] = .ok (.emuls, []) ∧
    decode [0x12] = .ok (.mul, []) ∧
    decode [0x11] = .ok (.ediv, []) ∧
    decode [0x18, 0x14] = .ok (.edivs, []) ∧
    decode [0x18, 0x11] = .ok (.fdiv, []) ∧
    decode [0x18, 0x10] = .ok (.idiv, []) ∧
    decode [0x18, 0x15] = .ok (.idivs, []) ∧
    decode [0x10, 0xFE] = .ok (.clc, []) ∧
    decode [0x10, 0xEF] = .ok (.cli, []) ∧
    decode [0x69, 0xED] = .ok (.clr (.idx (.acc .y .b)), []) ∧
    decode [0x87] = .ok (.clra, []) ∧
    decode [0xC7] = .ok (.clrb, []) ∧
    decode [0x10, 0xFD] = .ok (.clv, []) ∧
    decode [0x71, 0x09, 0x01] = .ok (.com (.ext 0x0901), []) ∧
    decode [0x41] = .ok (.coma, []) ∧
    decode [0x51] = .ok (.comb, []) ∧
    decode [0x60, 0xF4] = .ok (.neg (.idx (.acc .sp .a)), []) ∧
    decode [0x40] = .ok (.nega, []) ∧
    decode [0x50] = .ok (.negb, []) :=
  ⟨rfl, rfl, rfl, rfl, rfl, rfl, rfl, rfl, rfl, rfl, rfl, rfl, rfl, rfl, rfl, rfl, rfl, rfl,
    rfl, rfl, rfl, rfl, rfl, rfl, rfl, rfl, rfl, rfl, rfl, rfl⟩

theorem test_decode_branches :
    decode [0x20, 0xFA] = .ok (.bra 0xFA, []) ∧
    decode [0x21, 0xFA] = .ok (.brn 0xFA, []) ∧
    decode [0x24, 0xFA] = .ok (.bcc 0xFA, []) ∧
    decode [0x25, 0xFA] = .ok (.bcs 0xFA, []) ∧
    decode [0x27, 0xFA] = .ok (.beq 0xFA, []) ∧
    decode [0x2B, 0xFA] = .ok (.bmi 0xFA, []) ∧
    decode [0x26, 0xFA] = .ok (.bne 0xFA, []) ∧
    decode [0x2A, 0xFA] = .ok (.bpl 0xFA, []) ∧
    decode [0x28, 0xFA] = .ok (.bvc 0xFA, []) ∧
    decode [0x29, 0xFA] = .ok (.bvs 0xFA, []) ∧
    decode [0x22, 0xFA] = .ok (.bhi 0xFA, []) ∧
    decode [0x24, 0xFA] = .ok (.bcc 0xFA, []) ∧
    decode [0x25, 0xFA] = .ok (.bcs 0xFA, []) ∧
    decode [0x23, 0xFA] = .ok (.bls 0xFA, []) ∧
    decode [0x2C, 0xFA] = .ok (.bge 0xFA, []) ∧
    decode [0x2E, 0xFA] = .ok (.bgt 0xFA, []) ∧
    decode [0x2F, 0xFA] = .ok (.ble 0xFA, []) ∧
    decode [0x2D, 0xFA] = .ok (.blt 0xFA, []) ∧
    decode [0x18, 0x20, 0x80, 0x01] = .ok (.lbra 0x8001, []) ∧
    decode [0x18, 0x21, 0x80, 0x01] = .ok (.lbrn 0x8001, []) ∧
    decode [0x18, 0x24, 0x80, 0x01] = .ok (.lbcc 0x8001, []) ∧
    decode [0x18, 0x25, 0x80, 0x01] = .ok (.lbcs 0x8001, []) ∧
    decode [0x18, 0x27, 0x80, 0x01] = .ok (.lbeq 0x8001, []) ∧
    decode [0x18, 0x2B, 0x80, 0x01] = .ok (.lbmi 0x8001, []) ∧
    decode [0x18, 0x26, 0x80, 0x01] = .ok (.lbne 0x8001, []) ∧
    decode [0x18, 0x2A, 0x80, 0x01] = .ok (.lbpl 0x8001, []) ∧
    decode [0x18, 0x28, 0x80, 0x01] = .ok (.lbvc 0x8001, []) ∧
    decode [0x18, 0x29, 0x80, 0x01] = .ok (.lbvs 0x8001, []) ∧
    decode [0x18, 0x22, 0x80, 0x01] = .ok (.lbhi 0x8001, []) ∧
    decode [0x18, 0x24, 0x80, 0x01] = .ok (.lbcc 0x8001, []) ∧
    decode [0x18, 0x25, 0x80, 0x01] = .ok (.lbcs 0x8001, []) ∧
    decode [0x18, 0x23, 0x80, 0x01] = .ok (.lbls 0x8001, []) ∧
    decode [0x18, 0x2C, 0x80, 0x01] = .ok (.lbge 0x8001, []) ∧
    decode [0x18, 0x2E, 0x80, 0x01] = .ok (.lbgt 0x8001, []) ∧
    decode [0x18, 0x2F, 0x80, 0x01] = .ok (.lble 0x8001, []) ∧
    decode [0x18, 0x2D, 0x80, 0x01] = .ok (.lblt 0x8001, []) ∧
    decode [0x1F, 0x09, 0x01, 0x81, 0xFB] = .ok (.brclr (.ext 0x0901) 0x81 0xFB, []) ∧
    decode [0x0E, 0x30, 0x81, 0xFB] = .ok (.brset (.idx (.auto .x true 0)) 0x81 0xFB, []) ∧
    decode [0x04, 0x15, 0xFB] = .ok (.dbeq .x (-5), []) ∧
    decode [0x04, 0x35, 0xFB] = .ok (.dbne .x (-5), []) ∧
    decode [0x04, 0x95, 0xFB] = .ok (.ibeq .x (-5), []) ∧
    decode [0x04, 0xB5, 0xFB] = .ok (.ibne .x (-5), []) ∧
    decode [0x04, 0x55, 0xFB] = .ok (.tbeq .x (-5), []) ∧
    decode [0x04, 0x75, 0xFB] = .ok (.tbne .x (-5), []) :=
  ⟨rfl, rfl, rfl, rfl, rfl, rfl, rfl, rfl, rfl, rfl, rfl, rfl, rfl, rfl, rfl, rfl, rfl, rfl,
    rfl, rfl, rfl, rfl, rfl, rfl, rfl, rfl, rfl, rfl, rfl, rfl, rfl, rfl, rfl, rfl, rfl, rfl,
    rfl, rfl, rfl, rfl, rfl, rfl, rfl, rfl⟩

theorem test_decode_logic :
    decode [0xB4, 0x09, 0x01] = .ok (.anda (.mem (.ext 0x0901)), []) ∧
    decode [0xE4, 0xE7] = .ok (.andb (.mem (.idx (.indD .x))), []) ∧
    decode [0x10, 0x5A] = .ok (.andcc 0x5A, []) ∧
    decode [0x98, 0x50] = .ok (.eora (.mem (.dir 0x50)), []) ∧
    decode [0xF8, 0x09, 0x01] = .ok (.eorb (.mem (.ext 0x0901)), []) ∧
    decode [0xAA, 0xC0] = .ok (.oraa (.mem (.idx (.off5 .pc 0))), []) ∧
    decode [0xCA, 0x5A] = .ok (.orab (.imm 0x5A), []) ∧
    decode [0x14, 0x5A] = .ok (.orcc 0x5A, []) ∧
    decode [0x0D, 0xE9, 0x80, 0x81] = .ok (.bclr (.idx (.off9 .y (-128))) 0x81, []) ∧
    decode [0xA5, 0x47] = .ok (.bita (.mem (.idx (.off5 .y 7))), []) ∧
    decode [0xC5, 0x5A] = .ok (.bitb (.imm 0x5A), []) ∧
    decode [0x0C, 0xE2, 0x01, 0x00, 0x81] = .ok (.bset (.idx (.off16 .x 0x0100)) 0x81, []) :=
  ⟨rfl, rfl, rfl, rfl, rfl, rfl, rfl, rfl, rfl, rfl, rfl, rfl⟩

theorem test_decode_shifts :
    decode [0x78, 0x09, 0x01] = .ok (.asl (.ext 0x0901), []) ∧
    decode [0x48] = .ok (.asla, []) ∧
    decode [0x58] = .ok (.aslb, []) ∧
    decode [0x59] = .ok (.asld, []) ∧
    decode [0x74, 0x09, 0x01] = .ok (.lsr (.ext 0x0901), []) ∧
    decode [0x44] = .ok (.lsra, []) ∧
    decode [0x54] = .ok (.lsrb, []) ∧
    decode [0x49] = .ok (.lsrd, []) ∧
    decode [0x78, 0x09, 0x01] = .ok (.asl (.ext 0x0901), []) ∧
    decode [0x48] = .ok (.asla, []) ∧
    decode [0x58] = .ok (.aslb, []) ∧
    decode [0x59] = .ok (.asld, []) ∧
    decode [0x77, 0x09, 0x01] = .ok (.asr (.ext 0x0901), []) ∧
    decode [0x47] = .ok (.asra, []) ∧
    decode [0x57] = .ok (.asrb, []) ∧
    decode [0x65, 0x1F] = .ok (.rol (.idx (.off5 .x (-1))), []) ∧
    decode [0x45] = .ok (.rola, []) ∧
    decode [0x55] = .ok (.rolb, []) ∧
    decode [0x76, 0x09, 0x01] = .ok (.ror (.ext 0x0901), []) ∧
    decode [0x46] = .ok (.rora, []) ∧
    decode [0x56] = .ok (.rorb, []) :=
  ⟨rfl, rfl, rfl, rfl, rfl, rfl, rfl, rfl, rfl, rfl, rfl, rfl, rfl, rfl, rfl, rfl, rfl, rfl,
    rfl, rfl, rfl⟩

theorem test_decode_moves :
    decode [0x18, 0x08, 0x30, 0x5A] = .ok (.movb (.imId 0x5A (.auto .x true 0)), []) ∧
    decode [0x18, 0x09, 0x40, 0x09, 0x00] = .ok (.movb (.exId 0x0900 (.off5 .y 0)), []) ∧
    decode [0x18, 0x0A, 0x30, 0x70] =
      .ok (.movb (.idId (.auto .x true 0) (.auto .y true 0)), []) ∧
    decode [0x18, 0x0B, 0x5A, 0x09, 0x01] = .ok (.movb (.imEx 0x5A 0x0901), []) ∧
    decode [0x18, 0x0C, 0x08, 0x00, 0x08, 0x01] = .ok (.movb (.exEx 0x0800 0x0801), []) ∧
    decode [0x18, 0x0D, 0xAE, 0x09, 0x01] = .ok (.movb (.idEx (.auto .sp false 14) 0x0901), []) ∧
    decode [0x18, 0x00, 0xE6, 0x12, 0x34] = .ok (.movw (.imId 0x1234 (.acc .x .d)), []) ∧
    decode [0x18, 0x01, 0x00, 0x09, 0x01] = .ok (.movw (.exId 0x0901 (.off5 .x 0)), []) ∧
    decode [0x18, 0x02, 0x31, 0xAE] =
      .ok (.movw (.idId (.auto .x true 1) (.auto .sp false 14)), []) ∧
    decode [0x18, 0x03, 0x12, 0x34, 0x09, 0x00] = .ok (.movw (.imEx 0x1234 0x0900), []) ∧
    decode [0x18, 0x04, 0x09, 0x00, 0x09, 0x01] = .ok (.movw (.exEx 0x0900 0x0901), []) ∧
    decode [0x18, 0x05, 0x00, 0x09, 0x10] = .ok (.movw (.idEx (.off5 .x 0) 0x0910), []) :=
  ⟨rfl, rfl, rfl, rfl, rfl, rfl, rfl, rfl, rfl, rfl, rfl, rfl⟩

/-- A byte that no row matches, an unassigned page-2 opcode, and an operand cut short are refused by
name (R97). -/
theorem test_decode_refuses_by_name :
    decode [0x00] = .error (.outOfScope "BGND") ∧
    decode [0x3F] = .error (.outOfScope "SWI") ∧
    decode [0x18, 0x30] = .error (.unimplemented 0x30) ∧
    decode [0xB7, 0x03] = .error (.transferPostbyte 0x03) ∧
    decode [0xB7, 0x85] = .error (.exchangeWidths 0x85) ∧
    decode [0x04, 0xC0, 0x00] = .error (.loopPostbyte 0xC0) ∧
    decode [0x1A, 0xE7] = .error (.indexedSubform (.indD .x)) ∧
    decode [0xFC, 0x09] = .error .truncated :=
  ⟨rfl, rfl, rfl, rfl, rfl, rfl, rfl, rfl⟩

/-- The bytes of a table row are read with the first byte in the low bits. -/
theorem test_table_word_is_low_byte_first :
    decodeTableWord 16 0x0E18 = some .tab ∧ decodeTableWord 8 0x86 = some (.ldaa (.imm 0)) :=
  ⟨rfl, rfl⟩

/-! ### One step -/

/-- The instruction's bytes stand at $0800 as program text, every address is RAM, and the other listed
bytes have a value. -/
def before (bytes : List Byte) (a b : Byte) (x y sp : Word) (ccr : Byte) (m : List Host.Cell) :
    State where
  a := a
  b := b
  x := x
  y := y
  sp := sp
  pc := 0x0800
  ccr := ccr
  mem := placeBytes bytes 0x0800 m
  draws := 0
  launch :=
    { map := []
      rest := .ram
      text := [⟨0x0800, bytes.length⟩]
      pcBase := none
      endPc := none }

/-- The step answers a state with the property. -/
def gives (s : State) (p : State → Bool) : Bool :=
  match step s with
  | .next t => p t
  | .fault _ => false
  | .refused _ => false

/-- The step is refused for the reason. -/
def refuses (s : State) (e : Refusal) : Bool :=
  match step s with
  | .next _ => false
  | .fault _ => false
  | .refused f => decide (f = e)

/-- LDAA 7,Y (R121). -/
theorem test_ldaa_a :
    gives (before [0xA6, 0x47] 0x00 0x00 0x0000 0x0900 0x0A00 0xD0 [(0x0907, 0x5A)]) fun t =>
      t.a = 0x5A ∧ t.ccr = 0xD0 ∧ t.pc = 0x0802 := by decide

/-- LDD $FFFF (R123). -/
theorem test_ldd :
    gives (before [0xFC, 0xFF, 0xFF] 0x00 0x00 0x0000 0x0000 0x0A00 0xD0 [(0x0000, 0x01),
        (0xFFFF, 0x80)]) fun t =>
      t.a = 0x80 ∧ t.b = 0x01 ∧ t.ccr = 0xD8 ∧ t.pc = 0x0803 := by decide

/-- LDAA $0100,X (16-bit offset) (R121). -/
theorem test_ldaa_b :
    gives (before [0xA6, 0xE2, 0x01, 0x00] 0x00 0x00 0x0900 0x0000 0x0A00 0xD0 [(0x0A00,
        0x33)]) fun t =>
      t.a = 0x33 ∧ t.ccr = 0xD0 ∧ t.pc = 0x0804 := by decide

/-- LEAX 4,Y (R129). -/
theorem test_leax :
    gives (before [0x1A, 0x44] 0x00 0x00 0x1111 0xFFFE 0x0A00 0xDF []) fun t =>
      t.x = 0x0002 ∧ t.ccr = 0xDF ∧ t.pc = 0x0802 := by decide

/-- LEAY B,X (R130). -/
theorem test_leay :
    gives (before [0x19, 0xE5] 0x00 0xFF 0x0900 0x0000 0x0A00 0xD0 []) fun t =>
      t.y = 0x09FF ∧ t.ccr = 0xD0 ∧ t.pc = 0x0802 := by decide

/-- STAA $50 (R132). -/
theorem test_staa :
    gives (before [0x5A, 0x50] 0xFF 0x00 0x0000 0x0000 0x0A00 0xD7 []) fun t =>
      memGet t.mem 0x0050 = some 0xFF ∧ t.ccr = 0xD9 ∧ t.pc = 0x0802 := by decide

/-- STD 0,X (R134). -/
theorem test_std :
    gives (before [0x6C, 0x00] 0x12 0x34 0x0900 0x0000 0x0A00 0xD2 []) fun t =>
      memGet t.mem 0x0900 = some 0x12 ∧ memGet t.mem 0x0901 = some 0x34 ∧ t.ccr = 0xD0 ∧
      t.pc = 0x0802 := by decide

/-- STX $FFFF (R136). -/
theorem test_stx :
    gives (before [0x7E, 0xFF, 0xFF] 0x00 0x00 0x8001 0x0000 0x0A00 0xD0 []) fun t =>
      memGet t.mem 0x0000 = some 0x01 ∧ memGet t.mem 0xFFFF = some 0x80 ∧ t.ccr = 0xD8 ∧
      t.pc = 0x0803 := by decide

/-- TAB (R151). -/
theorem test_tab :
    gives (before [0x18, 0x0E] 0x80 0x01 0x0000 0x0000 0x0A00 0xD3 []) fun t =>
      t.b = 0x80 ∧ t.ccr = 0xD9 ∧ t.pc = 0x0802 := by decide

/-- TFR X,A (R154). -/
theorem test_tfr :
    gives (before [0xB7, 0x50] 0x00 0x00 0x12FE 0x0000 0x0A00 0xD0 []) fun t =>
      t.a = 0xFE ∧ t.ccr = 0xD0 ∧ t.pc = 0x0802 := by decide

/-- SEX A,X (R164). -/
theorem test_sex :
    gives (before [0xB7, 0x05] 0x80 0x00 0x0000 0x0000 0x0A00 0xD0 []) fun t =>
      t.x = 0xFF80 ∧ t.ccr = 0xD0 ∧ t.pc = 0x0802 := by decide

/-- TAP (R152). -/
theorem test_tap :
    gives (before [0xB7, 0x02] 0xFF 0x00 0x0000 0x0000 0x0A00 0x90 []) fun t =>
      t.ccr = 0xBF ∧ t.pc = 0x0802 := by decide

/-- TPA (R155). -/
theorem test_tpa :
    gives (before [0xB7, 0x20] 0x00 0x00 0x0000 0x0000 0x0A00 0xD5 []) fun t =>
      t.a = 0xD5 ∧ t.ccr = 0xD5 ∧ t.pc = 0x0802 := by decide

/-- TSX (R156). -/
theorem test_tsx :
    gives (before [0xB7, 0x75] 0x00 0x00 0x0000 0x0000 0x09FE 0xD0 []) fun t =>
      t.x = 0x09FE ∧ t.ccr = 0xD0 ∧ t.pc = 0x0802 := by decide

/-- TXS (R158). -/
theorem test_txs :
    gives (before [0xB7, 0x57] 0x00 0x00 0x0A00 0x0000 0x0A00 0xD0 []) fun t =>
      t.sp = 0x0A00 ∧ t.ccr = 0xD0 ∧ t.pc = 0x0802 := by decide

/-- EXG A,CCR (R160). -/
theorem test_exg :
    gives (before [0xB7, 0x82] 0x4F 0x00 0x0000 0x0000 0x0A00 0x90 []) fun t =>
      t.a = 0x90 ∧ t.ccr = 0x0F ∧ t.pc = 0x0802 := by decide

/-- XGDX (R162). -/
theorem test_xgdx :
    gives (before [0xB7, 0xC5] 0x12 0x34 0xABCD 0x0000 0x0A00 0xD0 []) fun t =>
      t.a = 0xAB ∧ t.b = 0xCD ∧ t.x = 0x1234 ∧ t.ccr = 0xD0 ∧ t.pc = 0x0802 := by decide

/-- MOVB 1,X+,1,Y+ (R166). -/
theorem test_movb :
    gives (before [0x18, 0x0A, 0x30, 0x70] 0x00 0x00 0x0900 0x0910 0x0A00 0xD0 [(0x0900,
        0xAA)]) fun t =>
      t.x = 0x0901 ∧ t.y = 0x0911 ∧ memGet t.mem 0x0910 = some 0xAA ∧ t.ccr = 0xD0 ∧
      t.pc = 0x0804 := by decide

/-- MOVW 2,X+,2,-SP (R167). -/
theorem test_movw :
    gives (before [0x18, 0x02, 0x31, 0xAE] 0x00 0x00 0x0900 0x0000 0x0A00 0xD0 [(0x0900, 0xDE),
        (0x0901, 0xAD)]) fun t =>
      t.x = 0x0902 ∧ t.sp = 0x09FE ∧ memGet t.mem 0x09FE = some 0xDE ∧
      memGet t.mem 0x09FF = some 0xAD ∧ t.ccr = 0xD0 ∧ t.pc = 0x0804 := by decide

/-- PSHA (SP wraps) (R169). -/
theorem test_psha :
    gives (before [0x36] 0xA5 0x00 0x0000 0x0000 0x0000 0xD0 []) fun t =>
      t.sp = 0xFFFF ∧ memGet t.mem 0xFFFF = some 0xA5 ∧ t.ccr = 0xD0 ∧ t.pc = 0x0801 := by decide

/-- PSHC (R171). -/
theorem test_pshc :
    gives (before [0x39] 0x11 0x00 0x0000 0x0000 0x0A00 0xD5 []) fun t =>
      t.sp = 0x09FF ∧ memGet t.mem 0x09FF = some 0xD5 ∧ t.ccr = 0xD5 ∧ t.pc = 0x0801 := by decide

/-- PSHD (R172). -/
theorem test_pshd :
    gives (before [0x3B] 0x12 0x34 0x0000 0x0000 0x0A00 0xD0 []) fun t =>
      t.sp = 0x09FE ∧ memGet t.mem 0x09FE = some 0x12 ∧ memGet t.mem 0x09FF = some 0x34 ∧
      t.ccr = 0xD0 ∧ t.pc = 0x0801 := by decide

/-- PSHX (R173). -/
theorem test_pshx :
    gives (before [0x34] 0x00 0x00 0xABCD 0x0000 0x0A00 0xD0 []) fun t =>
      t.sp = 0x09FE ∧ memGet t.mem 0x09FE = some 0xAB ∧ memGet t.mem 0x09FF = some 0xCD ∧
      t.ccr = 0xD0 ∧ t.pc = 0x0801 := by decide

/-- PULA (R175). -/
theorem test_pula :
    gives (before [0x32] 0x00 0x00 0x0000 0x0000 0x09FF 0xD0 [(0x09FF, 0x80)]) fun t =>
      t.a = 0x80 ∧ t.sp = 0x0A00 ∧ t.ccr = 0xD0 ∧ t.pc = 0x0801 := by decide

/-- PULC (R177). -/
theorem test_pulc :
    gives (before [0x38] 0x00 0x00 0x0000 0x0000 0x09FF 0x90 [(0x09FF, 0xFF)]) fun t =>
      t.sp = 0x0A00 ∧ t.ccr = 0xBF ∧ t.pc = 0x0801 := by decide

/-- PULD (R178). -/
theorem test_puld :
    gives (before [0x3A] 0x00 0x00 0x0000 0x0000 0x09FE 0xD0 [(0x09FE, 0x12), (0x09FF, 0x34)])
        fun t =>
      t.a = 0x12 ∧ t.b = 0x34 ∧ t.sp = 0x0A00 ∧ t.ccr = 0xD0 ∧ t.pc = 0x0801 := by decide

/-- PULY (R180). -/
theorem test_puly :
    gives (before [0x31] 0x00 0x00 0x0000 0x0000 0xFFFF 0xD0 [(0x0000, 0x02), (0xFFFF, 0x01)])
        fun t =>
      t.y = 0x0102 ∧ t.sp = 0x0001 ∧ t.ccr = 0xD0 ∧ t.pc = 0x0801 := by decide

/-- ABA (R201). -/
theorem test_aba :
    gives (before [0x18, 0x06] 0x80 0x80 0x0000 0x0000 0x0A00 0xD0 []) fun t =>
      t.a = 0x00 ∧ t.ccr = 0xD7 ∧ t.pc = 0x0802 := by decide

/-- ABX (R203). -/
theorem test_abx :
    gives (before [0x1A, 0xE5] 0x00 0xFF 0xFF01 0x0000 0x0A00 0xD0 []) fun t =>
      t.x = 0x0000 ∧ t.ccr = 0xD0 ∧ t.pc = 0x0802 := by decide

/-- ADDA #$01 (R207). -/
theorem test_adda :
    gives (before [0x8B, 0x01] 0x7F 0x00 0x0000 0x0000 0x0A00 0xD0 []) fun t =>
      t.a = 0x80 ∧ t.ccr = 0xFA ∧ t.pc = 0x0802 := by decide

/-- ADCA #$00 (C=1) (R205). -/
theorem test_adca :
    gives (before [0x89, 0x00] 0xFF 0x00 0x0000 0x0000 0x0A00 0xD1 []) fun t =>
      t.a = 0x00 ∧ t.ccr = 0xF5 ∧ t.pc = 0x0802 := by decide

/-- ADDD #$0001 (R209). -/
theorem test_addd :
    gives (before [0xC3, 0x00, 0x01] 0x7F 0xFF 0x0000 0x0000 0x0A00 0xD0 []) fun t =>
      t.a = 0x80 ∧ t.b = 0x00 ∧ t.ccr = 0xDA ∧ t.pc = 0x0803 := by decide

/-- SBA (R210). -/
theorem test_sba :
    gives (before [0x18, 0x16] 0x10 0x20 0x0000 0x0000 0x0A00 0xD0 []) fun t =>
      t.a = 0xF0 ∧ t.ccr = 0xD9 ∧ t.pc = 0x0802 := by decide

/-- SUBA #$01 (R213). -/
theorem test_suba :
    gives (before [0x80, 0x01] 0x80 0x00 0x0000 0x0000 0x0A00 0xD0 []) fun t =>
      t.a = 0x7F ∧ t.ccr = 0xD2 ∧ t.pc = 0x0802 := by decide

/-- SBCA #$00 (C=1) (R211). -/
theorem test_sbca :
    gives (before [0x82, 0x00] 0x00 0x00 0x0000 0x0000 0x0A00 0xD1 []) fun t =>
      t.a = 0xFF ∧ t.ccr = 0xD9 ∧ t.pc = 0x0802 := by decide

/-- SUBD 2,X (R215). -/
theorem test_subd :
    gives (before [0xA3, 0x02] 0x00 0x00 0x0900 0x0000 0x0A00 0xD0 [(0x0902, 0x00), (0x0903,
        0x01)]) fun t =>
      t.a = 0xFF ∧ t.b = 0xFF ∧ t.ccr = 0xD9 ∧ t.pc = 0x0802 := by decide

/-- DAA after $19+$28 (R216). -/
theorem test_daa_a :
    gives (before [0x18, 0x07] 0x41 0x00 0x0000 0x0000 0x0A00 0xF0 []) fun t =>
      t.a = 0x47 ∧ t.pc = 0x0802 := by decide

/-- The domain of DAA at its edges (R216, D17): no packed-BCD addition leaves A = $00 to $03 with a half
carry and no carry, while $08+$08 and $19+$19+1 leave $10 and $33. -/
theorem test_daa_domain :
    daaValid 0x00 false true = false ∧ daaValid 0x03 false true = false ∧
    daaValid 0x10 false true = true ∧ daaValid 0x33 false true = true ∧
    daaValid 0x14 false true = false ∧ daaValid 0x00 false false = true := by decide

/-- DAA after $90+$90 (R216). -/
theorem test_daa_b :
    gives (before [0x18, 0x07] 0x20 0x00 0x0000 0x0000 0x0A00 0xD1 []) fun t =>
      t.a = 0x80 ∧ t.pc = 0x0802 := by decide

/-- INCA (R228). -/
theorem test_inca :
    gives (before [0x42] 0x7F 0x00 0x0000 0x0000 0x0A00 0xD1 []) fun t =>
      t.a = 0x80 ∧ t.ccr = 0xDB ∧ t.pc = 0x0801 := by decide

/-- INC $0900 (R227). -/
theorem test_inc :
    gives (before [0x72, 0x09, 0x00] 0x00 0x00 0x0000 0x0000 0x0A00 0xD0 [(0x0900, 0xFE)]) fun
        t =>
      memGet t.mem 0x0900 = some 0xFF ∧ t.ccr = 0xD8 ∧ t.pc = 0x0803 := by decide

/-- DECB (R223). -/
theorem test_decb :
    gives (before [0x53] 0x00 0x00 0x0000 0x0000 0x0A00 0xD0 []) fun t =>
      t.b = 0xFF ∧ t.ccr = 0xD8 ∧ t.pc = 0x0801 := by decide

/-- DEC 1,Y (R221). -/
theorem test_dec :
    gives (before [0x63, 0x41] 0x00 0x00 0x0000 0x0900 0x0A00 0xD0 [(0x0901, 0x01)]) fun t =>
      memGet t.mem 0x0901 = some 0x00 ∧ t.ccr = 0xD4 ∧ t.pc = 0x0802 := by decide

/-- INX (R231). -/
theorem test_inx :
    gives (before [0x08] 0x00 0x00 0xFFFF 0x0000 0x0A00 0xD0 []) fun t =>
      t.x = 0x0000 ∧ t.ccr = 0xD4 ∧ t.pc = 0x0801 := by decide

/-- INS (R230). -/
theorem test_ins :
    gives (before [0x1B, 0x81] 0x00 0x00 0x0000 0x0000 0xFFFF 0xD0 []) fun t =>
      t.sp = 0x0000 ∧ t.ccr = 0xD0 ∧ t.pc = 0x0802 := by decide

/-- DES (R224). -/
theorem test_des :
    gives (before [0x1B, 0x9F] 0x00 0x00 0x0000 0x0000 0x0000 0xDF []) fun t =>
      t.sp = 0xFFFF ∧ t.ccr = 0xDF ∧ t.pc = 0x0802 := by decide

/-- CBA (R251). -/
theorem test_cba :
    gives (before [0x18, 0x17] 0x10 0x10 0x0000 0x0000 0x0A00 0xD0 []) fun t =>
      t.ccr = 0xD4 ∧ t.pc = 0x0802 := by decide

/-- CMPA #$01 (R252). -/
theorem test_cmpa :
    gives (before [0x81, 0x01] 0x80 0x00 0x0000 0x0000 0x0A00 0xD0 []) fun t =>
      t.ccr = 0xD2 ∧ t.pc = 0x0802 := by decide

/-- CPD #$1234 (R254). -/
theorem test_cpd :
    gives (before [0x8C, 0x12, 0x34] 0x12 0x34 0x0000 0x0000 0x0A00 0xD0 []) fun t =>
      t.ccr = 0xD4 ∧ t.pc = 0x0803 := by decide

/-- CPS $0900 (R255). -/
theorem test_cps :
    gives (before [0xBF, 0x09, 0x00] 0x00 0x00 0x0000 0x0000 0x0A00 0xD0 [(0x0900, 0x0A),
        (0x0901, 0x01)]) fun t =>
      t.ccr = 0xD9 ∧ t.pc = 0x0803 := by decide

/-- TSTA (R259). -/
theorem test_tsta :
    gives (before [0x97] 0x80 0x00 0x0000 0x0000 0x0A00 0xD3 []) fun t =>
      t.ccr = 0xD8 ∧ t.pc = 0x0801 := by decide

/-- TST $0900 (R258). -/
theorem test_tst :
    gives (before [0xF7, 0x09, 0x00] 0x00 0x00 0x0000 0x0000 0x0A00 0xD3 [(0x0900, 0x01)]) fun
        t =>
      t.ccr = 0xD0 ∧ t.pc = 0x0803 := by decide

/-- MUL (R264). -/
theorem test_mul :
    gives (before [0x12] 0x10 0x08 0x0000 0x0000 0x0A00 0xD0 []) fun t =>
      t.a = 0x00 ∧ t.b = 0x80 ∧ t.ccr = 0xD1 ∧ t.pc = 0x0801 := by decide

/-- EMUL (R262). -/
theorem test_emul :
    gives (before [0x13] 0xFF 0xFF 0x0000 0xFFFF 0x0A00 0xD0 []) fun t =>
      t.a = 0x00 ∧ t.b = 0x01 ∧ t.y = 0xFFFE ∧ t.ccr = 0xD8 ∧ t.pc = 0x0801 := by decide

/-- EMULS (R263). -/
theorem test_emuls :
    gives (before [0x18, 0x13] 0xFF 0xFF 0x0000 0x0002 0x0A00 0xD0 []) fun t =>
      t.b = 0xFE ∧ t.y = 0xFFFF ∧ t.ccr = 0xD9 ∧ t.pc = 0x0802 := by decide

/-- EDIV (R266). -/
theorem test_ediv_a :
    gives (before [0x11] 0x00 0x00 0x0010 0x0001 0x0A00 0xD0 []) fun t =>
      t.y = 0x1000 ∧ t.ccr = 0xD0 ∧ t.pc = 0x0801 := by decide

/-- EDIVS (R267). -/
theorem test_edivs :
    gives (before [0x18, 0x14] 0xFF 0xF9 0x0002 0xFFFF 0x0A00 0xD0 []) fun t =>
      t.b = 0xFF ∧ t.y = 0xFFFD ∧ t.ccr = 0xD8 ∧ t.pc = 0x0802 := by decide

/-- FDIV (R268). -/
theorem test_fdiv_a :
    gives (before [0x18, 0x11] 0x00 0x01 0x0002 0x0000 0x0A00 0xD0 []) fun t =>
      t.b = 0x00 ∧ t.x = 0x8000 ∧ t.ccr = 0xD0 ∧ t.pc = 0x0802 := by decide

/-- IDIV (R269). -/
theorem test_idiv_a :
    gives (before [0x18, 0x10] 0x00 0x64 0x0007 0x0000 0x0A00 0xDB []) fun t =>
      t.b = 0x02 ∧ t.x = 0x000E ∧ t.ccr = 0xD8 ∧ t.pc = 0x0802 := by decide

/-- IDIVS (R270). -/
theorem test_idivs :
    gives (before [0x18, 0x15] 0xFF 0xF9 0x0002 0x0000 0x0A00 0xD0 []) fun t =>
      t.b = 0xFF ∧ t.x = 0xFFFD ∧ t.ccr = 0xD8 ∧ t.pc = 0x0802 := by decide

/-- EDIV, quotient too big (R266). -/
theorem test_ediv_b :
    gives (before [0x11] 0x00 0x00 0x0002 0x0002 0x0A00 0xD1 []) fun t =>
      t.x = 0x0002 ∧ t.pc = 0x0801 := by decide

/-- FDIV, divisor 0 (R268). -/
theorem test_fdiv_b :
    gives (before [0x18, 0x11] 0x00 0x01 0x0000 0x0000 0x0A00 0xD8 []) fun t =>
      t.x = 0xFFFF ∧ t.ccr = 0xDB ∧ t.pc = 0x0802 := by decide

/-- IDIV, divisor 0 (R269). -/
theorem test_idiv_b :
    gives (before [0x18, 0x10] 0x12 0x34 0x0000 0x0000 0x0A00 0xDE []) fun t =>
      t.x = 0xFFFF ∧ t.ccr = 0xD9 ∧ t.pc = 0x0802 := by decide

/-- CLI (R273). -/
theorem test_cli :
    gives (before [0x10, 0xEF] 0x00 0x00 0x0000 0x0000 0x0A00 0xDF []) fun t =>
      t.ccr = 0xCF ∧ t.pc = 0x0802 := by decide

/-- CLRA (R275). -/
theorem test_clra :
    gives (before [0x87] 0x55 0x00 0x0000 0x0000 0x0A00 0xDB []) fun t =>
      t.a = 0x00 ∧ t.ccr = 0xD4 ∧ t.pc = 0x0801 := by decide

/-- CLR $0900 (R274). -/
theorem test_clr :
    gives (before [0x79, 0x09, 0x00] 0x00 0x00 0x0000 0x0000 0x0A00 0xDB [(0x0900, 0x77)]) fun
        t =>
      memGet t.mem 0x0900 = some 0x00 ∧ t.ccr = 0xD4 ∧ t.pc = 0x0803 := by decide

/-- COMA (R279). -/
theorem test_coma :
    gives (before [0x41] 0x00 0x00 0x0000 0x0000 0x0A00 0xD2 []) fun t =>
      t.a = 0xFF ∧ t.ccr = 0xD9 ∧ t.pc = 0x0801 := by decide

/-- COM 0,X (R278). -/
theorem test_com :
    gives (before [0x61, 0x00] 0x00 0x00 0x0900 0x0000 0x0A00 0xD0 [(0x0900, 0xA5)]) fun t =>
      memGet t.mem 0x0900 = some 0x5A ∧ t.ccr = 0xD1 ∧ t.pc = 0x0802 := by decide

/-- NEGA (R282). -/
theorem test_nega :
    gives (before [0x40] 0x80 0x00 0x0000 0x0000 0x0A00 0xD0 []) fun t =>
      t.ccr = 0xDB ∧ t.pc = 0x0801 := by decide

/-- NEG $0900 (R281). -/
theorem test_neg :
    gives (before [0x70, 0x09, 0x00] 0x00 0x00 0x0000 0x0000 0x0A00 0xD0 [(0x0900, 0x7F)]) fun
        t =>
      memGet t.mem 0x0900 = some 0x81 ∧ t.ccr = 0xD9 ∧ t.pc = 0x0803 := by decide

/-- BRA -128 (R303). -/
theorem test_bra :
    gives (before [0x20, 0x80] 0x00 0x00 0x0000 0x0000 0x0A00 0xD0 []) fun t =>
      t.ccr = 0xD0 ∧ t.pc = 0x0782 := by decide

/-- BRN (R304). -/
theorem test_brn :
    gives (before [0x21, 0x05] 0x00 0x00 0x0000 0x0000 0x0A00 0xDF []) fun t =>
      t.ccr = 0xDF ∧ t.pc = 0x0802 := by decide

/-- BEQ (Z=1) (R307). -/
theorem test_beq :
    gives (before [0x27, 0x10] 0x00 0x00 0x0000 0x0000 0x0A00 0xD4 []) fun t =>
      t.ccr = 0xD4 ∧ t.pc = 0x0812 := by decide

/-- BNE back (Z=0) (R309). -/
theorem test_bne :
    gives (before [0x26, 0xFA] 0x00 0x00 0x0000 0x0000 0x0A00 0xD0 []) fun t =>
      t.ccr = 0xD0 ∧ t.pc = 0x07FC := by decide

/-- BHI (C=0,Z=1) (R313). -/
theorem test_bhi :
    gives (before [0x22, 0x04] 0x00 0x00 0x0000 0x0000 0x0A00 0xD4 []) fun t =>
      t.ccr = 0xD4 ∧ t.pc = 0x0802 := by decide

/-- BGE (N=1,V=1) (R317). -/
theorem test_bge :
    gives (before [0x2C, 0x04] 0x00 0x00 0x0000 0x0000 0x0A00 0xDA []) fun t =>
      t.ccr = 0xDA ∧ t.pc = 0x0806 := by decide

/-- BGT (Z=1) (R318). -/
theorem test_bgt :
    gives (before [0x2E, 0x04] 0x00 0x00 0x0000 0x0000 0x0A00 0xD4 []) fun t =>
      t.ccr = 0xD4 ∧ t.pc = 0x0802 := by decide

/-- BLT (N=0,V=1) (R320). -/
theorem test_blt :
    gives (before [0x2D, 0x04] 0x00 0x00 0x0000 0x0000 0x0A00 0xD2 []) fun t =>
      t.ccr = 0xD2 ∧ t.pc = 0x0806 := by decide

/-- LBLT (N=1,V=0) (R338). -/
theorem test_lblt :
    gives (before [0x18, 0x2D, 0x7F, 0xFF] 0x00 0x00 0x0000 0x0000 0x0A00 0xD8 []) fun t =>
      t.ccr = 0xD8 ∧ t.pc = 0x8803 := by decide

/-- BRCLR $0900,#$00 (empty mask: taken) (R340). -/
theorem test_brclr :
    gives (before [0x1F, 0x09, 0x00, 0x00, 0x06] 0x00 0x00 0x0000 0x0000 0x0A00 0xD0 [(0x0900,
        0xFF)]) fun t =>
      t.ccr = 0xD0 ∧ t.pc = 0x080B := by decide

/-- BRSET 0,X,#$81 (all set) (R341). -/
theorem test_brset :
    gives (before [0x0E, 0x00, 0x81, 0xFB] 0x00 0x00 0x0900 0x0000 0x0A00 0xD0 [(0x0900,
        0xC3)]) fun t =>
      t.ccr = 0xD0 ∧ t.pc = 0x07FF := by decide

/-- DBNE B,-5 (B=2) (R344). -/
theorem test_dbne_a :
    gives (before [0x04, 0x31, 0xFB] 0x00 0x02 0x0000 0x0000 0x0A00 0xD4 []) fun t =>
      t.b = 0x01 ∧ t.ccr = 0xD4 ∧ t.pc = 0x07FE := by decide

/-- DBNE B,-5 (B=0 wraps to $FF) (R344). -/
theorem test_dbne_b :
    gives (before [0x04, 0x31, 0xFB] 0x00 0x00 0x0000 0x0000 0x0A00 0xD0 []) fun t =>
      t.b = 0xFF ∧ t.ccr = 0xD0 ∧ t.pc = 0x07FE := by decide

/-- DBEQ X,+4 (X=1) (R343). -/
theorem test_dbeq :
    gives (before [0x04, 0x05, 0x04] 0x00 0x00 0x0001 0x0000 0x0A00 0xD0 []) fun t =>
      t.x = 0x0000 ∧ t.ccr = 0xD0 ∧ t.pc = 0x0807 := by decide

/-- IBEQ A,+2 (A=$FF) (R345). -/
theorem test_ibeq :
    gives (before [0x04, 0x80, 0x02] 0xFF 0x00 0x0000 0x0000 0x0A00 0xD0 []) fun t =>
      t.a = 0x00 ∧ t.ccr = 0xD0 ∧ t.pc = 0x0805 := by decide

/-- IBNE D,-3 (D=$FFFF) (R346). -/
theorem test_ibne :
    gives (before [0x04, 0xB4, 0xFD] 0xFF 0xFF 0x0000 0x0000 0x0A00 0xD0 []) fun t =>
      t.a = 0x00 ∧ t.b = 0x00 ∧ t.ccr = 0xD0 ∧ t.pc = 0x0803 := by decide

/-- TBEQ SP,+$10 (SP=0) (R347). -/
theorem test_tbeq :
    gives (before [0x04, 0x47, 0x10] 0x00 0x00 0x0000 0x0000 0x0000 0xD0 []) fun t =>
      t.ccr = 0xD0 ∧ t.pc = 0x0813 := by decide

/-- TBNE A,+255 (R348). -/
theorem test_tbne :
    gives (before [0x04, 0x60, 0xFF] 0x01 0x00 0x0000 0x0000 0x0A00 0xD0 []) fun t =>
      t.ccr = 0xD0 ∧ t.pc = 0x0902 := by decide

/-- ANDA #$0F (R351). -/
theorem test_anda :
    gives (before [0x84, 0x0F] 0xF0 0x00 0x0000 0x0000 0x0A00 0xDB []) fun t =>
      t.a = 0x00 ∧ t.ccr = 0xD5 ∧ t.pc = 0x0802 := by decide

/-- ORAA #$80 (R356). -/
theorem test_oraa :
    gives (before [0x8A, 0x80] 0x01 0x00 0x0000 0x0000 0x0A00 0xD3 []) fun t =>
      t.a = 0x81 ∧ t.ccr = 0xD9 ∧ t.pc = 0x0802 := by decide

/-- EORA #$FF (R354). -/
theorem test_eora :
    gives (before [0x88, 0xFF] 0xFF 0x00 0x0000 0x0000 0x0A00 0xDB []) fun t =>
      t.a = 0x00 ∧ t.ccr = 0xD5 ∧ t.pc = 0x0802 := by decide

/-- ANDCC #$FE (R353). -/
theorem test_andcc :
    gives (before [0x10, 0xFE] 0x00 0x00 0x0000 0x0000 0x0A00 0xDF []) fun t =>
      t.ccr = 0xDE ∧ t.pc = 0x0802 := by decide

/-- ORCC #$40 (X stays 0) (R358). -/
theorem test_orcc :
    gives (before [0x14, 0x40] 0x00 0x00 0x0000 0x0000 0x0A00 0x90 []) fun t =>
      t.ccr = 0x90 ∧ t.pc = 0x0802 := by decide

/-- BITA #$80 (R362). -/
theorem test_bita :
    gives (before [0x85, 0x80] 0x80 0x00 0x0000 0x0000 0x0A00 0xD3 []) fun t =>
      t.ccr = 0xD9 ∧ t.pc = 0x0802 := by decide

/-- BSET $50,#$81 (R364). -/
theorem test_bset :
    gives (before [0x4C, 0x50, 0x81] 0x00 0x00 0x0000 0x0000 0x0A00 0xD3 [(0x0050, 0x00)]) fun
        t =>
      memGet t.mem 0x0050 = some 0x81 ∧ t.ccr = 0xD9 ∧ t.pc = 0x0803 := by decide

/-- BCLR $0900,#$0F (R361). -/
theorem test_bclr :
    gives (before [0x1D, 0x09, 0x00, 0x0F] 0x00 0x00 0x0000 0x0000 0x0A00 0xD0 [(0x0900,
        0xFF)]) fun t =>
      memGet t.mem 0x0900 = some 0xF0 ∧ t.ccr = 0xD8 ∧ t.pc = 0x0804 := by decide

/-- LSLA (R373). -/
theorem test_lsla :
    gives (before [0x48] 0x40 0x00 0x0000 0x0000 0x0A00 0xD0 []) fun t =>
      t.a = 0x80 ∧ t.ccr = 0xDA ∧ t.pc = 0x0801 := by decide

/-- LSLD (R375). -/
theorem test_lsld :
    gives (before [0x59] 0x00 0x80 0x0000 0x0000 0x0A00 0xD1 []) fun t =>
      t.a = 0x01 ∧ t.b = 0x00 ∧ t.ccr = 0xD0 ∧ t.pc = 0x0801 := by decide

/-- LSL $0900 (R372). -/
theorem test_lsl :
    gives (before [0x78, 0x09, 0x00] 0x00 0x00 0x0000 0x0000 0x0A00 0xD0 [(0x0900, 0x55)]) fun
        t =>
      memGet t.mem 0x0900 = some 0xAA ∧ t.ccr = 0xDA ∧ t.pc = 0x0803 := by decide

/-- LSRA (R377). -/
theorem test_lsra :
    gives (before [0x44] 0x01 0x00 0x0000 0x0000 0x0A00 0xD8 []) fun t =>
      t.a = 0x00 ∧ t.ccr = 0xD7 ∧ t.pc = 0x0801 := by decide

/-- LSRD (R379). -/
theorem test_lsrd :
    gives (before [0x49] 0x01 0x00 0x0000 0x0000 0x0A00 0xD0 []) fun t =>
      t.a = 0x00 ∧ t.b = 0x80 ∧ t.ccr = 0xD0 ∧ t.pc = 0x0801 := by decide

/-- LSR 0,X (R376). -/
theorem test_lsr :
    gives (before [0x64, 0x00] 0x00 0x00 0x0900 0x0000 0x0A00 0xD0 [(0x0900, 0xFF)]) fun t =>
      memGet t.mem 0x0900 = some 0x7F ∧ t.ccr = 0xD3 ∧ t.pc = 0x0802 := by decide

/-- ASRA (R385). -/
theorem test_asra :
    gives (before [0x47] 0x81 0x00 0x0000 0x0000 0x0A00 0xD0 []) fun t =>
      t.a = 0xC0 ∧ t.ccr = 0xD9 ∧ t.pc = 0x0801 := by decide

/-- ASR $0900 (R384). -/
theorem test_asr :
    gives (before [0x77, 0x09, 0x00] 0x00 0x00 0x0000 0x0000 0x0A00 0xD0 [(0x0900, 0x80)]) fun
        t =>
      memGet t.mem 0x0900 = some 0xC0 ∧ t.ccr = 0xDA ∧ t.pc = 0x0803 := by decide

/-- ROLA (C=1) (R389). -/
theorem test_rola :
    gives (before [0x45] 0x80 0x00 0x0000 0x0000 0x0A00 0xD1 []) fun t =>
      t.a = 0x01 ∧ t.ccr = 0xD3 ∧ t.pc = 0x0801 := by decide

/-- ROL $0900 (C=1) (R388). -/
theorem test_rol :
    gives (before [0x75, 0x09, 0x00] 0x00 0x00 0x0000 0x0000 0x0A00 0xD1 [(0x0900, 0x00)]) fun
        t =>
      memGet t.mem 0x0900 = some 0x01 ∧ t.ccr = 0xD0 ∧ t.pc = 0x0803 := by decide

/-- RORA (C=1) (R392). -/
theorem test_rora :
    gives (before [0x46] 0x00 0x00 0x0000 0x0000 0x0A00 0xD1 []) fun t =>
      t.a = 0x80 ∧ t.ccr = 0xDA ∧ t.pc = 0x0801 := by decide

/-- ROR 0,Y (C=1) (R391). -/
theorem test_ror :
    gives (before [0x66, 0x40] 0x00 0x00 0x0000 0x0900 0x0A00 0xD1 [(0x0900, 0x01)]) fun t =>
      memGet t.mem 0x0900 = some 0x80 ∧ t.ccr = 0xD9 ∧ t.pc = 0x0802 := by decide

/-! ### Steps that the spec refuses -/

/-- LDAA 0,PC (R81). -/
theorem test_pc_base_is_refused :
    refuses (before [0xA6, 0xC0] 0 0 0 0 0x0A00 0xD0 []) .pcBaseOpen := by decide

/-- LDX 2,X+ (R83, R125). -/
theorem test_loaded_base_is_refused :
    refuses (before [0xEE, 0x31] 0 0 0x0900 0 0x0A00 0xD0 [(0x0900, 0x12), (0x0901, 0x34)])
      .autoBaseIsData := by decide

/-- STAA $0801, a store into the program text (R65). -/
theorem test_store_into_text_is_refused :
    refuses (before [0x7A, 0x08, 0x01] 1 0 0 0 0x0A00 0xD0 []) (.textStore 0x0801) := by decide

/-- The operand byte of LDAA is not declared program text (R65). -/
theorem test_fetch_outside_text_is_refused :
    refuses { before [0x86, 0x5A] 0 0 0 0 0x0A00 0xD0 [] with
        launch := { (before [0x86] 0 0 0 0 0 0 []).launch with text := [⟨0x0800, 1⟩] } }
      (.fetchOutsideText 0x0801) := by decide

/-- The first byte $00 is no instruction of the spec (R97). -/
theorem test_first_byte_zero_is_refused :
    refuses (before [0x00] 0 0 0 0 0x0A00 0xD0 []) (.encoding (.outOfScope "BGND")) := by decide

/-- The first instruction after reset, placed where the step fetches (R430). -/
theorem test_first_instruction_after_reset :
    gives (State.reset.withFetchWord 16 0x5A86) fun t =>
      t.a = 0x5A ∧ t.ccr = 0xD0 ∧ t.pc = 0x0802 := by decide

/-! ### Exceptions -/

/-- The priority of R404: a promoted peripheral stands before IRQ, XIRQ before both, the masks shut all
three out, and a reset comes before SWI. -/
theorem test_exception_priority :
    let open_ : State := { State.reset with ccr := 0x00 }
    firstException none [.peripheral 1, .irq, .peripheral 0] open_ = some .irq ∧
    firstException none [.peripheral 1, .peripheral 0] open_ = some (.peripheral 0) ∧
    firstException (some 1) [.peripheral 0, .irq, .peripheral 1] open_ = some (.peripheral 1) ∧
    firstException (some 1) [.peripheral 1, .xirq] open_ = some .xirq ∧
    firstException none [.irq, .xirq, .peripheral 3] State.reset = none ∧
    firstException none [.swi, .copWatchdog, .unimplementedOpcode] State.reset =
      some .copWatchdog := by decide

/-- A reset takes the values of RAM and reads its vector from ROM (R42, R406). -/
theorem test_reset_forgets_ram :
    let s : State := { State.reset with
      ccr := 0x05
      mem := [(0x0900, 0x12), (0xFFFE, 0x40), (0xFFFF, 0x00)]
      launch := { State.reset.launch with map := [⟨0xFF80, 0x80, .rom⟩] } }
    ∃ t, serveException .reset 0 s = .next t ∧ t.pc = 0x4000 ∧
      t.mem = [(0xFFFE, 0x40), (0xFFFF, 0x00)] :=
  ⟨_, rfl, rfl, rfl⟩

/-! ### Each obligation with hypotheses has a state and operands that meet them -/

/-- Every address is RAM, no program text, nine bytes have a value; X, Y and SP point at them. -/
def sample : State :=
  { State.reset with
    a := 0x99
    x := 0x0900
    y := 0x0910
    sp := 0xFFFF
    mem := [(0x0000, 0x01), (0x0900, 0x09), (0x0901, 0x10), (0x0910, 0x5A), (0x0911, 0x7E),
      (0x9900, 0x33), (0xFFF2, 0x08), (0xFFF3, 0x00), (0xFFFF, 0x80)] }

/-- `sample` with the encoding of LDAA #$5A at the program counter. -/
def sampleCode : State :=
  { sample with
    mem := placeBytes [0x86, 0x5A] 0x0800 sample.mem
    launch := { sample.launch with text := [⟨0x0800, 2⟩] } }

/-- `sampleCode` where the last byte of the instruction wraps to address $0000 (R52). -/
def sampleWrap : State :=
  { sample with
    pc := 0xFFFF
    mem := placeBytes [0x86, 0x5A] 0xFFFF sample.mem
    launch := { sample.launch with text := [⟨0xFFFF, 1⟩, ⟨0x0000, 1⟩] } }

theorem witness_DecodeReadsBackEveryEncoding :
    (Instr.brset (.idx (.off16 .sp 1)) 1 2).WellFormed ∧ (Instr.exg (.r8 .a) (.r8 .ccr)).WellFormed :=
  by decide

theorem witness_DecodeAcceptsEncodingsOnly :
    decode [0x86, 0x5A, 0x00] = .ok (.ldaa (.imm 0x5A), [0x00]) := rfl

theorem witness_DecodeRefusesReservedPostbytes :
    ((0x08#8).getLsbD 3 = true ∧ (0x31#8).extractLsb' 4 3 = 3#3 ∧ (0x03#8).extractLsb' 0 3 = 3#3) ∧
    ((0x85#8).getLsbD 7 = true ∧ (0x85#8).getLsbD 3 = false ∧ (0x85#8).extractLsb' 4 3 ≠ 3#3 ∧
      (0x85#8).extractLsb' 0 3 ≠ 3#3 ∧ (0x85#8).getLsbD 6 ≠ (0x85#8).getLsbD 2) ∧
    ((0x08#8).getLsbD 3 = true ∧ (0xC0#8).extractLsb' 5 3 = 6#3 ∧ (0xE0#8).extractLsb' 5 3 = 7#3 ∧
      (0x02#8).extractLsb' 0 3 = 2#3 ∧ (0x03#8).extractLsb' 0 3 = 3#3) := by decide

theorem witness_StepRunsTheDecodedInstruction :
    decode [0x86, 0x5A] = .ok (.ldaa (.imm 0x5A), []) ∧ (Instr.ldaa (.imm 0x5A)).WellFormed ∧
    Placed [0x86, 0x5A] sampleCode.pc sampleCode ∧ sampleCode.launch.endPc ≠ some sampleCode.pc :=
  ⟨rfl, rfl, ⟨⟨⟨Or.inl rfl, rfl⟩, rfl⟩, ⟨⟨Or.inl rfl, rfl⟩, rfl⟩, trivial⟩, by decide⟩

theorem witness_StepRunsEveryEncodedInstruction :
    (Instr.ldaa (.imm 0x5A)).WellFormed ∧
    Placed (encode (.ldaa (.imm 0x5A))) sampleWrap.pc sampleWrap ∧
    sampleWrap.launch.endPc ≠ some sampleWrap.pc ∧ ∃ t, step sampleWrap = .next t :=
  ⟨rfl, ⟨⟨⟨Or.inl rfl, rfl⟩, rfl⟩, ⟨⟨Or.inl rfl, rfl⟩, rfl⟩, trivial⟩, by decide, ⟨_, rfl⟩⟩

theorem witness_StepStopsAtEndAndAtRefusedBytes :
    (∃ s : State, s.launch.endPc = some s.pc) ∧
    ∃ s : State, decode [0x00] = .error (.outOfScope "BGND") ∧
      DecodeError.outOfScope "BGND" ≠ .truncated ∧ [(0x00 : Byte)].length ≤ 6 ∧
      Placed [0x00] s.pc s ∧ s.launch.endPc ≠ some s.pc :=
  ⟨⟨{ sample with launch := { sample.launch with endPc := some 0x0800 } }, rfl⟩,
    { sampleCode with mem := [(0x0800, 0x00)] }, rfl, by decide, by decide,
    ⟨⟨⟨Or.inl rfl, rfl⟩, rfl⟩, trivial⟩, by decide⟩

theorem witness_ProgramCounterMovesByLengthOrOffset :
    (Instr.bra 0x80).WellFormed ∧ (∃ t, exec (.bra 0x80) sample = .next t) ∧
    ∃ t, exec (.ldaa (.imm 0x5A)) sample = .next t := ⟨rfl, ⟨_, rfl⟩, ⟨_, rfl⟩⟩

theorem witness_StepKeepsMemoryCanonical :
    Inv sampleCode ∧ ∃ t, step sampleCode = .next t := ⟨rfl, ⟨_, rfl⟩⟩

theorem witness_StepKeepsTextAndMaskX :
    Kept sampleCode sampleCode ∧ ∃ t, step sampleCode = .next t :=
  ⟨⟨rfl, id, fun _ _ => rfl, fun _ _ => rfl, fun _ h => h, Nat.le_refl _⟩, ⟨_, rfl⟩⟩

theorem witness_RunsKeepTextAndMaskX :
    NoAsyncEvents [[]] ∧ Inv sampleCode ∧ ∃ t, core.run [([] : List ExceptionSource)].length sampleCode = .next t :=
  ⟨by simp [NoAsyncEvents], rfl, ⟨_, rfl⟩⟩

theorem witness_ReadAfterWriteIsBigEndian :
    (∃ t, writeByte 0xFFFF 0x5A sample = .next t) ∧
    ∃ t, writeWord 0xFFFF 0x1234 sample = .next t := ⟨⟨_, rfl⟩, ⟨_, rfl⟩⟩

/-- A map with one region of each class, program text inside the RAM region. -/
def mapped : State :=
  { sample with
    launch :=
      { map := [⟨0x0000, 0x1000, .ram⟩, ⟨0x1000, 0x100, .device⟩, ⟨0x9900, 0x1, .rom⟩,
          ⟨0xFF00, 0x100, .rom⟩]
        rest := .unmapped
        text := [⟨0x0800, 0x100⟩]
        pcBase := none
        endPc := none } }

theorem witness_RegionsAdmitReadsAndWrites :
    (mapped.launch.isText 0x0800 = true ∧ mapped.launch.isText 0x08FF = true ∧
      mapped.launch.isText 0x0900 = false ∧ mapped.launch.isText 0x07FF = false) ∧
    (mapped.launch.kindOf 0x0000 = .ram ∧ mapped.launch.kindOf 0x0FFF = .ram ∧
      memGet mapped.mem 0x0900 = some 0x09 ∧ memGet mapped.mem 0x0FFF = none) ∧
    (mapped.launch.kindOf 0xFFFF = .rom ∧ memGet mapped.mem 0xFFFF = some 0x80) ∧
    (mapped.launch.kindOf 0x1000 = .device ∧ mapped.launch.kindOf 0x10FF = .device) ∧
    (mapped.launch.kindOf 0x1100 = .unmapped ∧ mapped.launch.isText 0x1100 = false) := by decide

theorem witness_OffsetAddressesAddToTheBase :
    (IdxBase.x = .x ∧ sample.x = 0x0900) ∧ (IdxBase.y = .y ∧ sample.y = 0x0910) ∧
    (IdxBase.sp = .sp ∧ sample.sp = 0xFFFF) := ⟨⟨rfl, rfl⟩, ⟨rfl, rfl⟩, ⟨rfl, rfl⟩⟩

theorem witness_IndirectFormsReadTheAddress :
    (∃ s : State, (IdxBase.x = .x ∧ s.x = 0xFFFF) ∧
      HasWord s (BitVec.ofNat 16 ((0xFFFF : Word).toNat + (s.a.toNat * 256 + s.b.toNat))) 0x8001) ∧
    HasWord sample (sample.x + 0) 0x0910 :=
  ⟨⟨{ sample with a := 0, x := 0xFFFF }, ⟨rfl, rfl⟩, ⟨Or.inl rfl, rfl⟩, ⟨Or.inl rfl, rfl⟩⟩,
    ⟨Or.inl rfl, rfl⟩, ⟨Or.inl rfl, rfl⟩⟩

theorem witness_PcBaseIsRefusedUntilSupplied :
    sample.launch.pcBase = none ∧ ∃ s : State, s.launch.pcBase = some ⟨0, 0, 0⟩ :=
  ⟨rfl, { sample with launch := { sample.launch with pcBase := some ⟨0, 0, 0⟩ } }, rfl⟩

theorem witness_OperandFormsGiveTheirValue :
    (Idx.indD .x).inClass .all = true ∧ (Idx.off16 .x 0).inClass .noind = true ∧
    (Idx.auto .x true 0).inClass .short = true ∧
    (∃ t, memAddress .all 0x0802 (.idx (.auto .x true 0)) sample = .next (0x0900, t)) ∧
    HasByte sample 0x0900 0x09 ∧ HasWord sample 0x0900 0x0910 :=
  ⟨rfl, rfl, rfl, ⟨_, rfl⟩, ⟨Or.inl rfl, rfl⟩, ⟨Or.inl rfl, rfl⟩, ⟨Or.inl rfl, rfl⟩⟩

/-- Byte operands in immediate, direct, extended and indexed form have a value. -/
theorem byte_operands_have_values :
    (∃ t, operand8 (sample.nextPc 2) (.imm 0xFF) sample = .next (0xFF, t)) ∧
    (∃ t, operand8 (sample.nextPc 2) (.mem (.dir 0x00)) sample = .next (0x01, t)) ∧
    (∃ t, operand8 (sample.nextPc 3) (.mem (.ext 0xFFFF)) sample = .next (0x80, t)) ∧
    ∃ t, operand8 (sample.nextPc 2) (.mem (.idx (.auto .x true 0))) sample = .next (0x09, t) :=
  ⟨⟨_, rfl⟩, ⟨_, rfl⟩, ⟨_, rfl⟩, ⟨_, rfl⟩⟩

/-- Word operands have a value in the same forms, one over the top of memory, and none of the three
data registers is their base. -/
theorem word_operands_have_values :
    (∃ t, operand16 (sample.nextPc 3) (.imm 0x8000) sample = .next (0x8000, t)) ∧
    (∃ t, operand16 (sample.nextPc 3) (.mem (.ext 0xFFFF)) sample = .next (0x8001, t)) ∧
    (∃ t, operand16 (sample.nextPc 2) (.mem (.idx (.auto .x true 1))) sample = .next (0x0910, t) ∧
      (Opr.mem (w := 16) (.idx (.auto .x true 1))).autoBase ≠ some .sp ∧
      (Opr.mem (w := 16) (.idx (.auto .x true 1))).autoBase ≠ some .y) ∧
    ∃ t, operand16 (sample.nextPc 2) (.mem (.idx (.auto .y true 1))) sample = .next (0x5A7E, t) ∧
      (Opr.mem (w := 16) (.idx (.auto .y true 1))).autoBase ≠ some .x :=
  ⟨⟨_, rfl⟩, ⟨_, rfl⟩, ⟨_, rfl, by decide, by decide⟩, ⟨_, rfl, by decide⟩⟩

/-- Memory operands of the read-modify-write group stand at bytes that can be read and stored to. -/
theorem memory_operands_can_be_modified :
    (∃ t, memAddress .all (sample.nextPc 3) (MemX.ext 0xFFFF).toMem sample = .next (0xFFFF, t) ∧
      HasByte sample 0xFFFF 0x80 ∧ CanStore sample 0xFFFF) ∧
    ∃ t, memAddress .all (sample.nextPc 2) (MemX.idx (.auto .x true 0)).toMem sample =
        .next (0x0900, t) ∧ HasByte sample 0x0900 0x09 ∧ CanStore sample 0x0900 :=
  ⟨⟨_, rfl, ⟨Or.inl rfl, rfl⟩, ⟨rfl, rfl⟩⟩, ⟨_, rfl, ⟨Or.inl rfl, rfl⟩, ⟨rfl, rfl⟩⟩⟩

/-- The operands of the bit instructions, class IDX-noind, likewise. -/
theorem bit_operands_can_be_modified :
    (∃ t, memAddress .noind (sample.nextPc 3) (.dir 0x00) sample = .next (0x0000, t) ∧
      HasByte sample 0x0000 0x01 ∧ CanStore sample 0x0000) ∧
    ∃ t, memAddress .noind (sample.nextPc 3) (.idx (.auto .x true 0)) sample = .next (0x0900, t) ∧
      HasByte sample 0x0900 0x09 ∧ CanStore sample 0x0900 :=
  ⟨⟨_, rfl, ⟨Or.inl rfl, rfl⟩, ⟨rfl, rfl⟩⟩, ⟨_, rfl, ⟨Or.inl rfl, rfl⟩, ⟨rfl, rfl⟩⟩⟩

theorem witness_LoadsTakeTheOperandAndSetNZ :
    (∃ t, operand8 (sample.nextPc 2) (.mem (.idx (.auto .x true 0))) sample = .next (0x09, t)) ∧
    (∃ t, operand16 (sample.nextPc 2) (.mem (.idx (.auto .x true 1))) sample = .next (0x0910, t) ∧
      (Opr.mem (w := 16) (.idx (.auto .x true 1))).autoBase ≠ some .sp ∧
      (Opr.mem (w := 16) (.idx (.auto .x true 1))).autoBase ≠ some .y) ∧
    ∃ t, operand16 (sample.nextPc 2) (.mem (.idx (.auto .y true 1))) sample = .next (0x5A7E, t) ∧
      (Opr.mem (w := 16) (.idx (.auto .y true 1))).autoBase ≠ some .x :=
  ⟨byte_operands_have_values.2.2.2, word_operands_have_values.2.2.1,
    word_operands_have_values.2.2.2⟩

theorem witness_LoadEffectiveAddressTakesTheAddress :
    (Idx.auto .x true 0).inClass .noind = true ∧
    (∃ t, idxAddress .sole (sample.nextPc 2) (.auto .x true 0) sample = .next (0x0900, t)) ∧
    (Mem.idx (.auto .x true 0)).autoBase ≠ some .sp ∧
    (Mem.idx (.auto .x true 0)).autoBase ≠ some .y ∧
    (Mem.idx (.auto .x true 0)).autoBase = some .x ∧
    (∃ t, idxAddress .sole (sample.nextPc 2) (.off5 .sp 1) sample = .next (0x0000, t)) ∧
    (Mem.idx (.off5 .sp 1)).autoBase ≠ some .x ∧
    (∃ t, idxAddress .sole (sample.nextPc 2) (.auto .sp false 15) sample = .next (0xFFFE, t)) ∧
    (Mem.idx (.auto .sp false 15)).autoBase = some .sp ∧
    (∃ t, idxAddress .sole (sample.nextPc 2) (.auto .y true 0) sample = .next (sample.y, t)) ∧
    (Mem.idx (.auto .y true 0)).autoBase = some .y :=
  ⟨rfl, ⟨_, rfl⟩, by decide, by decide, rfl, ⟨_, rfl⟩, by decide, ⟨_, rfl⟩, rfl, ⟨_, rfl⟩, rfl⟩

theorem witness_StoresPutTheRegisterInMemory :
    (∃ t, memAddress .all (sample.nextPc 3) (.ext 0xFFFF) sample = .next (0xFFFF, t)) ∧
    CanStore sample 0xFFFF ∧ CanStoreWord sample 0xFFFF ∧
    (Mem.ext 0xFFFF).autoBase ≠ some .sp ∧ (Mem.ext 0xFFFF).autoBase ≠ some .x ∧
    (Mem.ext 0xFFFF).autoBase ≠ some .y ∧
    (∃ t, memAddress .all (sample.nextPc 2) (.idx (.auto .x true 1)) sample = .next (0x0900, t)) ∧
    (Mem.idx (.auto .x true 1)).autoBase ≠ some .sp :=
  ⟨⟨_, rfl⟩, ⟨rfl, rfl⟩, ⟨⟨rfl, rfl⟩, ⟨rfl, rfl⟩⟩, by decide, by decide, by decide, ⟨_, rfl⟩,
    by decide⟩

theorem witness_TransfersConvertBetweenWidths :
    Reg8.a ≠ .ccr ∧ Reg8.b ≠ .ccr := by decide

theorem witness_CcrWritersKeepMaskXClear :
    HasByte sample sample.sp 0x80 ∧ Reg8.a ≠ .ccr := ⟨⟨Or.inl rfl, rfl⟩, by decide⟩

theorem witness_NoInstructionSetsMaskX :
    ∃ t, exec (.orcc 0x01) sample = .next t ∧ t.flagX = true := ⟨_, rfl, rfl⟩

theorem witness_HalfCarryHasFewWriters :
    ∃ t, exec (.adda (.imm 0x0F)) sample = .next t ∧ t.flagH ≠ sample.flagH :=
  ⟨_, rfl, by decide⟩

theorem witness_MovesCopyMemoryWithoutFlags :
    (∃ t u, ¬ ((Mov.idId (w := 8) (.auto .x true 0) (.auto .y true 0)).sourceAuto ≠ none ∧
        (Mov.idId (w := 8) (.auto .x true 0) (.auto .y true 0)).sourceAuto =
          (Mov.idId (w := 8) (.auto .x true 0) (.auto .y true 0)).destAuto) ∧
      moveSource readByte (sample.nextPc 4) (.idId (.auto .x true 0) (.auto .y true 0)) sample =
        .next (0x09, t) ∧
      moveAddress .moveDest (sample.nextPc 4) (.idx (.auto .y true 0)) t = .next (0x0910, u) ∧
      CanStore sample 0x0910) ∧
    ∃ t u, ¬ ((Mov.exEx (w := 16) 0xFFFF 0xFFFF).sourceAuto ≠ none ∧
        (Mov.exEx (w := 16) 0xFFFF 0xFFFF).sourceAuto =
          (Mov.exEx (w := 16) 0xFFFF 0xFFFF).destAuto) ∧
      moveSource readWord (sample.nextPc 6) (.exEx 0xFFFF 0xFFFF) sample = .next (0x8001, t) ∧
      moveAddress .moveDest (sample.nextPc 6) (.ext 0xFFFF) t = .next (0xFFFF, u) ∧
      CanStoreWord sample 0xFFFF :=
  ⟨⟨_, _, by decide, rfl, rfl, ⟨rfl, rfl⟩⟩,
    ⟨_, _, by decide, rfl, rfl, ⟨⟨rfl, rfl⟩, ⟨rfl, rfl⟩⟩⟩⟩

theorem witness_StackGrowsDownByTheRegisterSize :
    CanStore sample (sample.sp - 1) ∧ CanStoreWord sample (sample.sp - 2) ∧
    (∃ s : State, s.sp = 0 ∧ CanStore s (s.sp - 1) ∧ CanStoreWord s (s.sp - 2)) ∧
    HasByte sample sample.sp 0x80 ∧ HasWord sample sample.sp 0x8001 :=
  ⟨⟨rfl, rfl⟩, ⟨⟨rfl, rfl⟩, ⟨rfl, rfl⟩⟩,
    ⟨{ sample with sp := 0 }, rfl, ⟨rfl, rfl⟩, ⟨⟨rfl, rfl⟩, ⟨rfl, rfl⟩⟩⟩,
    ⟨Or.inl rfl, rfl⟩, ⟨Or.inl rfl, rfl⟩, ⟨Or.inl rfl, rfl⟩⟩

theorem witness_ByteAdditionsSetAllFiveFlags :
    ∃ t, operand8 (sample.nextPc 2) (.mem (.idx (.auto .x true 0))) sample = .next (0x09, t) :=
  byte_operands_have_values.2.2.2

theorem witness_ByteSubtractionsLeaveHalfCarry :
    ∃ t, operand8 (sample.nextPc 3) (.mem (.ext 0xFFFF)) sample = .next (0x80, t) :=
  byte_operands_have_values.2.2.1

theorem witness_WordAdditionAndSubtractionOnD :
    ∃ t, operand16 (sample.nextPc 3) (.mem (.ext 0xFFFF)) sample = .next (0x8001, t) :=
  word_operands_have_values.2.1

theorem witness_IncrementAndDecrementLeaveCarry :
    ∃ t, memAddress .all (sample.nextPc 3) (MemX.ext 0xFFFF).toMem sample = .next (0xFFFF, t) ∧
      HasByte sample 0xFFFF 0x80 ∧ CanStore sample 0xFFFF := memory_operands_can_be_modified.1

/-- Each state that a packed-BCD addition can leave, at the bound of its clause, and each of the two
digit corrections (R216). -/
theorem witness_DecimalAdjustCorrectsBothDigits :
    (∃ s : State, s.flagC = false ∧ s.flagH = false ∧ s.a = 0x9A) ∧
    (∃ s : State, s.flagC = false ∧ s.flagH = true ∧ s.a.toNat / 16 = 1 ∧ s.a.toNat % 16 = 3) ∧
    (∃ s : State, s.flagC = true ∧ s.flagH = false ∧ s.a.toNat / 16 = 2) ∧
    ∃ s : State, s.flagC = true ∧ s.flagH = true ∧ s.a = 0x33 :=
  ⟨⟨{ sample with a := 0x9A }, rfl, rfl, rfl⟩,
    ⟨{ sample with a := 0x13, ccr := 0xF0 }, rfl, rfl, rfl, rfl⟩,
    ⟨{ sample with a := 0x20, ccr := 0xD1 }, rfl, rfl, rfl⟩,
    ⟨{ sample with a := 0x33, ccr := 0xF1 }, rfl, rfl, rfl⟩⟩

theorem witness_DecimalAdjustGivesTheDecimalSum :
    (sample.a.toNat / 16 ≤ 9 ∧ sample.a.toNat % 16 ≤ 9) ∧
    ((0x99 : Byte).toNat / 16 ≤ 9 ∧ (0x99 : Byte).toNat % 16 ≤ 9) := by decide

theorem witness_ComparesSetFlagsAlone :
    (∃ t, operand8 (sample.nextPc 2) (.imm 0xFF) sample = .next (0xFF, t)) ∧
    (∃ t, operand16 (sample.nextPc 2) (.mem (.idx (.auto .x true 1))) sample = .next (0x0910, t) ∧
      (Opr.mem (w := 16) (.idx (.auto .x true 1))).autoBase ≠ some .sp ∧
      (Opr.mem (w := 16) (.idx (.auto .x true 1))).autoBase ≠ some .y) ∧
    ∃ t, operand16 (sample.nextPc 2) (.mem (.idx (.auto .y true 1))) sample = .next (0x5A7E, t) ∧
      (Opr.mem (w := 16) (.idx (.auto .y true 1))).autoBase ≠ some .x :=
  ⟨byte_operands_have_values.1, word_operands_have_values.2.2.1, word_operands_have_values.2.2.2⟩

theorem witness_TestsAndClearsClearOverflowAndCarry :
    ∃ t, memAddress .all (sample.nextPc 2) (MemX.idx (.auto .x true 0)).toMem sample =
      .next (0x0900, t) ∧ HasByte sample 0x0900 0x09 ∧ CanStore sample 0x0900 :=
  memory_operands_can_be_modified.2

theorem witness_UnsignedDividesGiveQuotientAndRemainder :
    (∃ s : State, s.x = 0) ∧
    (∃ s : State, s.x ≠ 0 ∧ s.x.toNat ≤ s.y.toNat ∧ s.x.toNat ≤ (mkWord s.a s.b).toNat) ∧
    ∃ s : State, s.x ≠ 0 ∧ s.y.toNat < s.x.toNat ∧ (mkWord s.a s.b).toNat < s.x.toNat :=
  ⟨⟨{ sample with x := 0 }, rfl⟩, ⟨sample, by decide, by decide, by decide⟩,
    ⟨{ sample with x := 0xFFFF }, by decide, by decide, by decide⟩⟩

theorem witness_SignedDividesTruncateTowardZero :
    (∃ s : State, s.x ≠ 0 ∧
      Fits 16 ((s.y.toInt * 65536 + (mkWord s.a s.b).toNat).tdiv s.x.toInt) ∧
      ¬ ((mkWord s.a s.b).toInt = -32768 ∧ s.x.toInt = -1)) ∧
    (∃ s : State, s.x ≠ 0 ∧
      ¬ Fits 16 ((s.y.toInt * 65536 + (mkWord s.a s.b).toNat).tdiv s.x.toInt)) ∧
    ∃ s : State, s.x ≠ 0 ∧ ((mkWord s.a s.b).toInt = -32768 ∧ s.x.toInt = -1) :=
  ⟨⟨{ sample with y := 0xFFFF, x := 2 }, by decide, ⟨by decide, by decide⟩, by decide⟩,
    ⟨{ sample with x := 1 }, by decide, fun h => absurd h.2 (by decide)⟩,
    ⟨{ sample with a := 0x80, x := 0xFFFF }, by decide, by decide⟩⟩

theorem witness_ComplementAndNegateInvertTheOperand :
    ∃ t, memAddress .all (sample.nextPc 3) (MemX.ext 0xFFFF).toMem sample = .next (0xFFFF, t) ∧
      HasByte sample 0xFFFF 0x80 ∧ CanStore sample 0xFFFF := memory_operands_can_be_modified.1

/-- Both branch outcomes, and the empty mask. -/
theorem witness_BitBranchesTestTheMaskedBits :
    (∃ t, memAddress .noind (sample.nextPc 4) (.dir 0x00) sample = .next (0x0000, t) ∧
      HasByte sample 0x0000 0x01) ∧
    (∀ k < 8, (0x00#8).getLsbD k = true → (0x01#8).getLsbD k = false) ∧
    (∀ k < 8, (0x80#8).getLsbD k = true → (0x01#8).getLsbD k = false) ∧
    (∀ k < 8, (0x01#8).getLsbD k = true → (0x01#8).getLsbD k = true) ∧
    ¬ (∀ k < 8, (0x01#8).getLsbD k = true → (0x01#8).getLsbD k = false) ∧
    ¬ (∀ k < 8, (0x80#8).getLsbD k = true → (0x01#8).getLsbD k = true) :=
  ⟨⟨_, rfl, Or.inl rfl, rfl⟩, by decide, by decide, by decide, by decide, by decide⟩

theorem witness_LogicOnAccumulatorsClearsOverflow :
    ∃ t, operand8 (sample.nextPc 2) (.mem (.dir 0x00)) sample = .next (0x01, t) :=
  byte_operands_have_values.2.1

theorem witness_BitSetAndBitClearWriteTheMask :
    ∃ t, memAddress .noind (sample.nextPc 3) (.idx (.auto .x true 0)) sample = .next (0x0900, t) ∧
      HasByte sample 0x0900 0x09 ∧ CanStore sample 0x0900 := bit_operands_can_be_modified.2

theorem witness_LeftShiftsDoubleTheOperand :
    ∃ t, memAddress .all (sample.nextPc 3) (MemX.ext 0xFFFF).toMem sample = .next (0xFFFF, t) ∧
      HasByte sample 0xFFFF 0x80 ∧ CanStore sample 0xFFFF := memory_operands_can_be_modified.1

theorem witness_RightShiftsHalveTheOperand :
    ∃ t, memAddress .all (sample.nextPc 3) (MemX.ext 0xFFFF).toMem sample = .next (0xFFFF, t) ∧
      HasByte sample 0xFFFF 0x80 ∧ CanStore sample 0xFFFF := memory_operands_can_be_modified.1

theorem witness_RotatesTurnTheByteWithCarry :
    ∃ t, memAddress .all (sample.nextPc 2) (MemX.idx (.auto .x true 0)).toMem sample =
      .next (0x0900, t) ∧ HasByte sample 0x0900 0x09 ∧ CanStore sample 0x0900 :=
  memory_operands_can_be_modified.2

/-- An IRQ whose nine bytes end at address $0000. -/
def interrupted : State := { sample with sp := 0x0009 }

theorem witness_ExceptionEntryStacksTheRegisters :
    ExceptionSource.irq.isReset = false ∧
    (∀ k : Nat, 1 ≤ k → k ≤ 9 → CanStore interrupted (interrupted.sp - BitVec.ofNat 16 k)) ∧
    (∀ k : Nat, 1 ≤ k → k ≤ 9 → interrupted.sp - BitVec.ofNat 16 k ≠ ExceptionSource.irq.vector ∧
      interrupted.sp - BitVec.ofNat 16 k ≠ ExceptionSource.irq.vector + 1) ∧
    HasWord interrupted ExceptionSource.irq.vector 0x0800 := by
  refine ⟨rfl, fun _ _ _ => ⟨rfl, rfl⟩, fun k h1 h9 => ?_, ⟨Or.inl rfl, rfl⟩, ⟨Or.inl rfl, rfl⟩⟩
  have h : ∀ k : Fin 10, interrupted.sp - BitVec.ofNat 16 k.val ≠ ExceptionSource.irq.vector ∧
      interrupted.sp - BitVec.ofNat 16 k.val ≠ ExceptionSource.irq.vector + 1 := by decide
  exact h ⟨k, by omega⟩

theorem witness_ExceptionReturnRestoresTheRegisters :
    ExceptionSource.irq.isReset = false ∧
    ∃ t, takeException .irq 0x0802 interrupted = .next t := ⟨rfl, ⟨_, rfl⟩⟩

end Sys2Proof.Tests
end

section
/-! PROOFS. What every step and every run keeps (spec R6, R35, R50, R58, R65, R403).

`Preserved` adds the canonical form of memory to `Kept`, so that one case split over the instructions
serves both. Each state operation has one lemma saying that it preserves; each shape of instruction
has one lemma saying that it does when its parts do; `exec_keeps` names the shape of each mnemonic. -/

namespace Sys2Proof.Machine

/-! ### The relation -/

/-- What an instruction keeps: all of `Kept`, and the canonical form of memory (R50). -/
structure Preserved (s t : State) : Prop extends Kept s t where
  canonical : Inv s → Inv t

theorem Kept.trans {s t u : State} (h : Kept s t) (k : Kept t u) : Kept s u where
  launch := k.launch.trans h.launch
  flagX hu := h.flagX (k.flagX hu)
  text a ha := (k.text a (h.launch ▸ ha)).trans (h.text a ha)
  fixed a ha := (k.fixed a (h.launch ▸ ha)).trans (h.fixed a ha)
  valued a ha := k.valued a (h.valued a ha)
  draws := h.draws.trans k.draws

theorem Preserved.trans {s t u : State} (h : Preserved s t) (k : Preserved t u) : Preserved s u :=
  ⟨h.toKept.trans k.toKept, fun hs => k.canonical (h.canonical hs)⟩

/-- A change of registers and flags alone, which does not set X and may draw free values. -/
theorem Preserved.of_registers {s t : State} (hl : t.launch = s.launch := by simp)
    (hm : t.mem = s.mem := by simp) (hx : t.flagX = true → s.flagX = true := by simp)
    (hd : s.draws ≤ t.draws := by simp) : Preserved s t where
  launch := hl
  flagX := hx
  text _ _ := by rw [hm]
  fixed _ _ := by rw [hm]
  valued _ h := by rwa [hm]
  draws := hd
  canonical h := by unfold Inv at *; rwa [hm]

theorem Preserved.refl (s : State) : Preserved s s := .of_registers

/-! ### Updates whose effect on X or on the draws is not in the layer of State -/

@[simp] theorem State.stepCounter_flagX (s : State) (c : Counter) (k : Int) :
    (s.stepCounter c k).2.flagX = s.flagX := by
  unfold State.flagX; rw [State.stepCounter_ccr]

@[simp] theorem State.failedFlags_flagX (s : State) (d : Bool) :
    (s.failedFlags d).flagX = s.flagX := by
  cases d <;> simp [State.failedFlags]

/-- A failed divide draws N and Z, and V too after a zero divisor (R266). -/
@[simp] theorem State.failedFlags_draws (s : State) (d : Bool) :
    (s.failedFlags d).draws = s.draws + 2 + d.toNat := by
  cases d <;> simp [State.failedFlags]

@[simp] theorem State.failedDivide_flagX (s : State) (d : Bool) :
    (s.failedDivide d).flagX = s.flagX := by
  simp [State.failedDivide]

/-- The two words of a failed divide are drawn after its flags (R266, R267). -/
@[simp] theorem State.failedDivide_draws (s : State) (d : Bool) :
    (s.failedDivide d).draws = s.draws + 4 + d.toNat := by
  simp [State.failedDivide]; omega

@[simp] theorem State.failedDivide16_flagX (s : State) (d : Bool) :
    (s.failedDivide16 d).flagX = s.flagX := by
  simp [State.failedDivide16]

@[simp] theorem State.failedDivide16_draws (s : State) (d : Bool) :
    (s.failedDivide16 d).draws = s.draws + 4 + d.toNat := by
  simp [State.failedDivide16]; omega

/-- No write of a register named by a postbyte sets X: CCR goes through `writeCcr` (R37, R154). -/
theorem State.write8_flagX {s : State} {r : Reg8} {v : Byte} (h : (s.write8 r v).flagX = true) :
    s.flagX = true := by
  cases r with
  | a => exact h
  | b => exact h
  | ccr => exact (Bool.and_eq_true_iff.mp ((State.writeCcr_flagX s v).symm.trans h)).1

theorem Preserved.advance (s : State) (len : Nat) : Preserved s (s.advance len) := .of_registers

theorem Preserved.setFlags (s : State) (u : FlagUpdate) : Preserved s (s.setFlags u) :=
  .of_registers

theorem Preserved.writeCcr (s : State) (v : Byte) : Preserved s (s.writeCcr v) :=
  .of_registers (hx := fun h => (Bool.and_eq_true_iff.mp ((s.writeCcr_flagX v).symm.trans h)).1)

theorem Preserved.write8 (s : State) (r : Reg8) (v : Byte) : Preserved s (s.write8 r v) :=
  .of_registers (hx := State.write8_flagX)

theorem Preserved.write16 (s : State) (r : Reg16) (v : Word) : Preserved s (s.write16 r v) :=
  .of_registers

theorem Preserved.stepCounter (s : State) (c : Counter) (k : Int) :
    Preserved s (s.stepCounter c k).2 := .of_registers

theorem Preserved.failedDivide (s : State) (d : Bool) : Preserved s (s.failedDivide d) :=
  .of_registers (hd := by rw [State.failedDivide_draws]; omega)

theorem Preserved.failedDivide16 (s : State) (d : Bool) : Preserved s (s.failedDivide16 d) :=
  .of_registers (hd := by rw [State.failedDivide16_draws]; omega)

/-! ### Memory and the operands -/

/-- An admitted store goes to RAM outside the program text (R58, R65), and so changes no fixed byte. -/
theorem Preserved.writeByte {a : Word} {v : Byte} {s t : State} (h : writeByte a v s = .next t) :
    Preserved s t := by
  obtain ⟨⟨hram, htext⟩, rfl⟩ := writeByte_eq_next.mp h
  have hother : ∀ b : Word, b ≠ a →
      memGet (memSet s.mem a.toNat v) b.toNat = memGet s.mem b.toNat :=
    fun b hb => memGet_memSet_other _ _ _ _ (toNat_ne_of_ne hb)
  refine ⟨⟨rfl, id, fun b hb => hother b ?_, fun b hb => hother b ?_, fun b hb => ?_, le_rfl⟩,
    memWf_memSet s.mem a v⟩
  · rintro rfl
    exact absurd (hb.symm.trans htext) (by decide)
  · rintro rfl
    exact hb hram
  · rw [State.setMem_mem, memGet_memSet]
    split
    · rfl
    · exact hb

theorem Preserved.writeWord {a w : Word} {s t : State} (h : writeWord a w s = .next t) :
    Preserved s t := by
  obtain ⟨s1, h1, h2⟩ := andThen_eq_next.mp h
  exact (Preserved.writeByte h1).trans (.writeByte h2)

theorem Preserved.pushByte {v : Byte} {s t : State} (h : pushByte v s = .next t) : Preserved s t :=
  (Preserved.of_registers (t := s.setSp (s.sp - 1))).trans (.writeByte h)

theorem Preserved.pushWord {v : Word} {s t : State} (h : pushWord v s = .next t) : Preserved s t :=
  (Preserved.of_registers (t := s.setSp (s.sp - 2))).trans (.writeWord h)

theorem Preserved.pullByte {v : Byte} {s t : State} (h : pullByte s = .next (v, t)) :
    Preserved s t := by
  obtain ⟨_, rfl⟩ := pullByte_eq_next.mp h
  exact .of_registers

theorem Preserved.pullWord {v : Word} {s t : State} (h : pullWord s = .next (v, t)) :
    Preserved s t := by
  obtain ⟨_, rfl⟩ := pullWord_eq_next.mp h
  exact .of_registers

theorem Preserved.memAddress {c : IdxClass} {next ea : Word} {m : Mem} {s t : State}
    (h : memAddress c next m s = .next (ea, t)) : Preserved s t := by
  obtain rfl := memAddress_state h
  exact .of_registers

theorem Preserved.moveAddress {slot : Slot} {next ea : Word} {m : MemX} {s t : State}
    (h : moveAddress slot next m s = .next (ea, t)) : Preserved s t := by
  obtain rfl := moveAddress_state h
  exact .of_registers

theorem Preserved.moveSource {w : Nat} {read : Word → State → Res (BitVec w)} {next : Word}
    {m : Mov w} {v : BitVec w} {s t : State} (h : moveSource read next m s = .next (v, t)) :
    Preserved s t := by
  obtain rfl := moveSource_state h
  unfold Mov.afterSource
  split
  · exact .refl s
  · exact .of_registers

/-! ### The shapes of instructions -/

/-- Every state that the result answers keeps what `s` has. -/
def Keeps (s : State) (r : Res State) : Prop := ∀ t, r = .next t → Preserved s t

theorem Keeps.refused (s : State) (e : Refusal) : Keeps s (.refused e) := fun _ h => nomatch h

theorem Keeps.andThen {α : Type} {s : State} {r : Res α} {f : α → Res State}
    (h : ∀ a, r = .next a → Keeps s (f a)) : Keeps s (andThen r f) := fun t ht =>
  let ⟨a, ha, hf⟩ := andThen_eq_next.mp ht
  h a ha t hf

theorem Keeps.done {len : Nat} {s s1 : State} (h : Preserved s s1) : Keeps s (Res.done len s1) := by
  intro t ht
  obtain rfl := done_eq_next.mp ht
  exact h.trans (.advance s1 len)

theorem Keeps.unlessAutoBase {r : AutoBase} {b : Option AutoBase} {s : State} {go : Res State}
    (h : Keeps s go) : Keeps s (unlessAutoBase r b go) :=
  fun t ht => h t (unlessAutoBase_eq_next.mp ht).2

theorem Keeps.withOperand8 {o : Opr 8} {s : State} {f : Byte → State → State}
    (h : ∀ m s1, Preserved s1 (f m s1)) : Keeps s (withOperand8 o s f) := by
  intro t ht
  obtain ⟨m, s1, h1, rfl⟩ := withOperand8_eq_next.mp ht
  obtain rfl := operand8_state h1
  exact ((Preserved.of_registers (t := Opr.after o s)).trans (h m _)).trans (.advance _ _)

theorem Keeps.withOperand16 {o : Opr 16} {s : State} {f : Word → State → State}
    (h : ∀ m s1, Preserved s1 (f m s1)) : Keeps s (withOperand16 o s f) := by
  intro t ht
  obtain ⟨m, s1, h1, rfl⟩ := withOperand16_eq_next.mp ht
  obtain rfl := operand16_state h1
  exact ((Preserved.of_registers (t := Opr.after o s)).trans (h m _)).trans (.advance _ _)

theorem Keeps.storeByte (m : Mem) (v : Byte) (s : State) : Keeps s (storeByte m v s) := by
  intro t ht
  obtain ⟨ea, s1, s2, ha, hw, rfl⟩ := storeByte_eq_next.mp ht
  exact ((Preserved.memAddress ha).trans (.writeByte hw)).trans .of_registers

theorem Keeps.storeWord (m : Mem) (v : Word) (s : State) : Keeps s (storeWord m v s) := by
  intro t ht
  obtain ⟨ea, s1, s2, ha, hw, rfl⟩ := storeWord_eq_next.mp ht
  exact ((Preserved.memAddress ha).trans (.writeWord hw)).trans .of_registers

theorem Keeps.modifyByte (c : IdxClass) (m : Mem) (len : Nat)
    (f : Bool → Byte → Byte × FlagUpdate) (s : State) : Keeps s (modifyByte c m len f s) := by
  intro t ht
  obtain ⟨ea, s1, v, s2, ha, _, hw, rfl⟩ := modifyByte_eq_next.mp ht
  exact ((Preserved.memAddress ha).trans (.writeByte hw)).trans .of_registers

theorem Keeps.modifyMem (m : MemX) (f : Bool → Byte → Byte × FlagUpdate) (s : State) :
    Keeps s (modifyMem m f s) := .modifyByte _ _ _ _ _

theorem Keeps.modifyA (f : Bool → Byte → Byte × FlagUpdate) (s : State) : Keeps s (modifyA f s) :=
  Keeps.done (s1 := (s.setA _).setFlags _) .of_registers

theorem Keeps.modifyB (f : Bool → Byte → Byte × FlagUpdate) (s : State) : Keeps s (modifyB f s) :=
  Keeps.done (s1 := (s.setB _).setFlags _) .of_registers

theorem Keeps.modifyD (f : Bool → Word → Word × FlagUpdate) (s : State) : Keeps s (modifyD f s) :=
  Keeps.done (s1 := (s.setD _).setFlags _) .of_registers

theorem Keeps.loadAddress {write : Word → State → State} {x : Idx} {s : State}
    (h : ∀ ea s1, Preserved s1 (write ea s1)) : Keeps s (loadAddress write x s) := by
  intro t ht
  obtain ⟨ea, s1, ha, rfl⟩ := loadAddress_eq_next.mp ht
  obtain rfl := idxAddress_state (classAddress_eq_next.mp ha).2
  exact ((Preserved.of_registers (t := Idx.after x s)).trans (h ea _)).trans (.advance _ _)

theorem Keeps.branchIf (taken : Bool) (len : Nat) (rel : Word) (s : State) :
    Keeps s (branchIf taken len rel s) :=
  .done (by cases taken <;> exact .of_registers)

theorem Keeps.branchOnByte (m : Mem) (taken : Byte → Bool) (rr : Byte) (s : State) :
    Keeps s (branchOnByte m taken rr s) := by
  intro t ht
  obtain ⟨ea, s1, v, ha, _, hb⟩ := branchOnByte_eq_next.mp ht
  exact (Preserved.memAddress ha).trans (Keeps.branchIf _ _ _ s1 t hb)

/-- A loop primitive that steps its counter and then branches (R342 to R346). -/
theorem Keeps.stepAndBranch (c : Counter) (k : Int) (taken : Bool) (len : Nat) (rel : Word)
    (s : State) : Keeps s (Machine.branchIf taken len rel (s.stepCounter c k).2) :=
  fun t ht => (Preserved.stepCounter s c k).trans (Keeps.branchIf _ _ _ _ t ht)

theorem Keeps.move {w : Nat} {read : Word → State → Res (BitVec w)}
    {write : Word → BitVec w → State → Res State} {m : Mov w} {s : State}
    (hw : ∀ {a v} {s1 t : State}, write a v s1 = .next t → Preserved s1 t) :
    Keeps s (move read write m s) := by
  intro t ht
  obtain ⟨_, v, s1, b, s2, s3, hs, hd, h3, rfl⟩ := move_eq_next.mp ht
  exact (((Preserved.moveSource hs).trans (.moveAddress hd)).trans (hw h3)).trans (.advance _ _)

theorem Keeps.push {s : State} {r : Res State} {len : Nat}
    (h : ∀ {t}, r = .next t → Preserved s t) :
    Keeps s (Machine.andThen r fun s1 => Res.done len s1) :=
  .andThen fun _ hr => .done (h hr)

theorem Keeps.pull {α : Type} {s : State} {r : Res (α × State)} {f : α × State → Res State}
    (h : ∀ {v t}, r = .next (v, t) → Preserved s t) (hf : ∀ v s1, Keeps s1 (f (v, s1))) :
    Keeps s (Machine.andThen r f) :=
  .andThen fun (v, s1) hr t ht => (h hr).trans (hf v s1 t ht)

/-! ### The instructions with a shape of their own -/

theorem execTfr_keeps (r R : Reg) (s : State) : Keeps s (execTfr r R s) := by
  refine .done ?_
  cases r <;> cases R
  case r8.r8 r R => exact .write8 s R _
  case r8.r16 r R => exact .write16 s R _
  case r16.r8 r R => exact .write8 s R _
  case r16.r16 r R => exact .write16 s R _

theorem execExg_keeps (r R : Reg) (s : State) : Keeps s (execExg r R s) := by
  cases r <;> cases R
  case r8.r8 r R => exact .done ((Preserved.write8 s r _).trans (.write8 _ R _))
  case r16.r16 r R => exact .done ((Preserved.write16 s r _).trans (.write16 _ R _))
  case r8.r16 => exact .refused s _
  case r16.r8 => exact .refused s _

theorem execDaa_keeps (s : State) : Keeps s (execDaa s) := by
  unfold execDaa
  split
  · exact .done .of_registers
  · exact .done (.of_registers (hd := by simp; omega))

theorem execTst_keeps (m : MemX) (s : State) : Keeps s (execTst m s) :=
  .andThen fun (_, _) ha => .andThen fun _ _ =>
    .done ((Preserved.memAddress ha).trans (.setFlags _ _))

theorem execClr_keeps (m : MemX) (s : State) : Keeps s (execClr m s) :=
  .andThen fun (_, _) ha => .andThen fun _ hw =>
    .done (((Preserved.memAddress ha).trans (.writeByte hw)).trans (.setFlags _ _))

theorem execEdiv_keeps (s : State) : Keeps s (execEdiv s) := by
  unfold execEdiv
  extract_lets n d q
  split
  · exact .done (.failedDivide s true)
  · split
    · exact .done (.failedDivide s false)
    · exact .done .of_registers

theorem execEdivs_keeps (s : State) : Keeps s (execEdivs s) := by
  unfold execEdivs
  extract_lets n d q
  split
  · exact .done (.failedDivide s true)
  · split
    · exact .done (.failedDivide s false)
    · exact .done .of_registers

theorem execIdivs_keeps (s : State) : Keeps s (execIdivs s) := by
  unfold execIdivs
  extract_lets n d q
  split
  · exact .done (.failedDivide16 s true)
  · split
    · exact .done (.failedDivide16 s false)
    · exact .done .of_registers

theorem execFdiv_keeps (s : State) : Keeps s (execFdiv s) := by
  unfold execFdiv
  extract_lets n d q
  split <;> exact .done .of_registers

theorem execIdiv_keeps (s : State) : Keeps s (execIdiv s) := by
  unfold execIdiv
  split <;> exact .done .of_registers

/-! ### Every instruction, every step, every run -/

theorem exec_keeps (i : Instr) (s : State) : Keeps s (exec i s) := by
  unfold exec
  cases i with
  | ldaa _ | ldab _ | adca _ | adcb _ | adda _ | addb _ | sbca _ | sbcb _ | suba _ | subb _
  | cmpa _ | cmpb _ | anda _ | andb _ | eora _ | eorb _ | oraa _ | orab _ | bita _ | bitb _ =>
    exact .withOperand8 fun _ _ => .of_registers
  | ldd _ | addd _ | subd _ | cpd _ => exact .withOperand16 fun _ _ => .of_registers
  | lds _ | ldx _ | ldy _ | cps _ | cpx _ | cpy _ =>
    exact .unlessAutoBase (.withOperand16 fun _ _ => .of_registers)
  | leas _ | leax _ | leay _ => exact .unlessAutoBase (.loadAddress fun _ _ => .of_registers)
  | staa _ | stab _ => exact .storeByte _ _ _
  | std _ => exact .storeWord _ _ _
  | sts _ | stx _ | sty _ => exact .unlessAutoBase (.storeWord _ _ _)
  | tab | tba | tpa | tsx | tsy | txs | tys | xgdx | xgdy | aba | abx | aby | sba | des | dex | dey
  | ins | inx | iny | cba | tsta | tstb | emul | emuls | mul | clc | cli | clra | clrb | clv =>
    exact .done .of_registers
  | tap | andcc _ | orcc _ => exact .done (.writeCcr _ _)
  | tfr r R => exact execTfr_keeps r R s
  | exg r R => exact execExg_keeps r R s
  | sex _ R => exact .done (.write16 _ R _)
  | movb _ => exact .move Preserved.writeByte
  | movw _ => exact .move Preserved.writeWord
  | psha | pshb | pshc => exact .push Preserved.pushByte
  | pshd | pshx | pshy => exact .push Preserved.pushWord
  | pula | pulb => exact .pull Preserved.pullByte fun _ _ => .done .of_registers
  | pulc => exact .pull Preserved.pullByte fun _ _ => .done (.writeCcr _ _)
  | puld | pulx | puly => exact .pull Preserved.pullWord fun _ _ => .done .of_registers
  | daa => exact execDaa_keeps s
  | tst m => exact execTst_keeps m s
  | clr m => exact execClr_keeps m s
  | ediv => exact execEdiv_keeps s
  | edivs => exact execEdivs_keeps s
  | fdiv => exact execFdiv_keeps s
  | idiv => exact execIdiv_keeps s
  | idivs => exact execIdivs_keeps s
  | dec _ | inc _ | com _ | neg _ | lsl _ | lsr _ | asl _ | asr _ | rol _ | ror _ =>
    exact .modifyMem _ _ _
  | deca | inca | coma | nega | lsla | lsra | asla | asra | rola | rora => exact .modifyA _ _
  | decb | incb | comb | negb | lslb | lsrb | aslb | asrb | rolb | rorb => exact .modifyB _ _
  | lsld | lsrd | asld => exact .modifyD _ _
  | bclr _ _ | bset _ _ => exact .modifyByte _ _ _ _ _
  | bra _ | brn _ | bcc _ | bcs _ | beq _ | bmi _ | bne _ | bpl _ | bvc _ | bvs _ | bhi _ | bhs _
  | blo _ | bls _ | bge _ | bgt _ | ble _ | blt _ | lbra _ | lbrn _ | lbcc _ | lbcs _ | lbeq _
  | lbmi _ | lbne _ | lbpl _ | lbvc _ | lbvs _ | lbhi _ | lbhs _ | lblo _ | lbls _ | lbge _
  | lbgt _ | lble _ | lblt _ | tbeq _ _ | tbne _ _ => exact .branchIf _ _ _ _
  | brclr _ _ _ | brset _ _ _ => exact .branchOnByte _ _ _ _
  | dbeq _ _ | dbne _ _ | ibeq _ _ | ibne _ _ => exact .stepAndBranch _ _ _ _ _ _

theorem step_keeps (s : State) : Keeps s (step s) := by
  intro t ht
  obtain ⟨_, i, _, hi⟩ := step_eq_next.mp ht
  exact exec_keeps i s t hi

/-- Settles O12: a step adds nothing to `exec`, and `Kept` is transitive. -/
theorem stepKeepsTextAndMaskX : Obligations.StepKeepsTextAndMaskX :=
  fun _ s t hs ht => hs.trans (step_keeps s t ht).toKept

/-- A run of one step more is a step and the run from there. -/
theorem coreRun_step (k : Nat) (s : State) :
    core.run (k + 1) s = andThen (step s) (core.run k) := by
  refine (coreRun_succ core k s).trans ?_
  change _ = andThen (core.step s) (core.run k)
  cases core.step s <;> rfl

theorem coreRun_keeps (k : Nat) (s : State) : Keeps s (core.run k s) := by
  induction k generalizing s with
  | zero =>
    rintro t ⟨⟩
    exact .refl s
  | succ k ih =>
    intro t ht
    obtain ⟨s1, hs1, hrun⟩ := andThen_eq_next.mp ((coreRun_step k s).symm.trans ht)
    exact (step_keeps s s1 hs1).trans (ih s1 t hrun)

/-- With nothing pending at any boundary the hardware's run is the machine's (R403). -/
theorem runUnder_eq_coreRun (promoted : Option (Fin 57)) {events : List (List ExceptionSource)}
    (h : NoAsyncEvents events) (s : State) :
    runUnder promoted events s = core.run events.length s := by
  induction events generalizing s with
  | nil => rfl
  | cons pending rest ih =>
    obtain ⟨rfl, hrest⟩ := List.forall_mem_cons.mp h
    rw [runUnder, stepUnder_nil, funext (ih hrest)]
    exact (coreRun_step rest.length s).symm

/-- Settles O13: the two runs agree, and a run is steps in a row. -/
theorem runsKeepTextAndMaskX : Obligations.RunsKeepTextAndMaskX := by
  intro promoted events hnone s
  refine ⟨runUnder_eq_coreRun promoted hnone s, fun t hs ht => ?_⟩
  have h := coreRun_keeps events.length s t ht
  exact ⟨h.canonical hs, h.toKept⟩

end Sys2Proof.Machine
end

section
/-! PROOFS. What the operand forms give (spec R12, R76 to R81). -/

namespace Sys2Proof.Machine

/-- A PC base has no value while `PCBASE` is not supplied (R81). -/
theorem baseValue_pc_of_none {slot : Slot} {next : Word} {s : State} (h : s.launch.pcBase = none) :
    baseValue slot next .pc s = .refused .pcBaseOpen := by
  simp [baseValue, h]

/-- A PC base is the next instruction's address plus the displacement supplied (R81). -/
theorem baseValue_pc_of_some {slot : Slot} {next : Word} {s : State} {p : PcBase}
    (h : s.launch.pcBase = some p) :
    baseValue slot next .pc s = .next (next + p.displacement slot) := by
  simp [baseValue, h]

/-- The base register that an indexed sub-form adds its offset to; an automatic form has none (R81). -/
def Idx.offsetBase : Idx → Option IdxBase
  | .off5 r _ | .off9 r _ | .off16 r _ | .ind16 r _ | .acc r _ | .indD r => some r
  | .auto _ _ _ => none

/-- No sub-form has an address where its base is refused. -/
theorem idxAddress_of_base_refused {slot : Slot} {next : Word} {x : Idx} {r : IdxBase} {s : State}
    {e : Refusal} (hx : Idx.offsetBase x = some r) (h : baseValue slot next r s = .refused e) :
    idxAddress slot next x s = .refused e := by
  cases x with
  | auto => cases hx
  | off5 | off9 | off16 | ind16 | acc | indD =>
    cases hx
    simp [idxAddress, h]

/-- Settles O20: every sub-form but the automatic one starts from the base value. -/
theorem pcBaseIsRefusedUntilSupplied : Obligations.PcBaseIsRefusedUntilSupplied := by
  intro slot next s
  constructor
  · intro hnone n5 n9 n o
    have hrefused : ∀ x : Idx, Idx.offsetBase x = some .pc →
        idxAddress slot next x s = .refused .pcBaseOpen :=
      fun x hx => idxAddress_of_base_refused hx (baseValue_pc_of_none hnone)
    exact ⟨hrefused _ rfl, hrefused _ rfl, hrefused _ rfl, hrefused _ rfl, hrefused _ rfl,
      hrefused _ rfl⟩
  · intro p hp n
    rw [idxAddress, baseValue_pc_of_some hp, andThen_next]
    rfl

/-- A direct address is its byte as a number: the page stands at $0000 (R78, D6). -/
theorem directAddress_eq (dd : Byte) : Config.directBase + zext16 dd = BitVec.ofNat 16 dd.toNat := by
  apply BitVec.eq_of_toNat_eq
  simp [Config.directBase, zext16]

/-- The value of a byte in memory, read where its operand's address was computed. -/
theorem operand8_of_memAddress {next ea : Word} {m : Mem} {v : Byte} {s s1 : State}
    (h : memAddress .all next m s = .next (ea, s1)) (hv : HasByte s ea v) :
    operand8 next (.mem m) s = .next (v, Mem.after m s) := by
  obtain rfl := memAddress_state h
  exact operand8_eq_next.mpr ⟨ea, h, (hasByte_congr (by simp) (by simp)).mpr hv⟩

/-- The same for a word. -/
theorem operand16_of_memAddress {next ea : Word} {m : Mem} {v : Word} {s s1 : State}
    (h : memAddress .all next m s = .next (ea, s1)) (hv : HasWord s ea v) :
    operand16 next (.mem m) s = .next (v, Mem.after m s) := by
  obtain rfl := memAddress_state h
  exact operand16_eq_next.mpr ⟨ea, h, (hasWord_congr (by simp) (by simp)).mpr hv⟩

/-- Settles O21: an operand's address changes no memory, so the value stands where it stood. -/
theorem operandFormsGiveTheirValue : Obligations.OperandFormsGiveTheirValue := by
  refine ⟨fun next s => ⟨fun _ => rfl, fun _ => rfl, fun c dd => ?_, fun _ _ => rfl, fun c x hx => ?_⟩,
    fun next ea m s s1 h => ⟨memAddress_state h, fun _ => operand8_of_memAddress h,
      fun _ => operand16_of_memAddress h⟩⟩
  · rw [memAddress, directAddress_eq]
  · rw [memAddress, classAddress, if_pos hx]

end Sys2Proof.Machine
end

section
/-! PROOFS. Addition, subtraction and comparison (spec R11, R201 to R215, R250 to R257).

An instruction of these families writes at most one register, then the flags of a sum or difference,
then advances. Frames compose along these three writes; `runs_addByte`, `runs_subByte` and the two
`runs_compare` lemmas say once what each family does, for any register. -/

namespace Sys2Proof.Machine

/-! ### Frames of the single updates -/

theorem Frame.trans {w w' : List Part} {s t u : State} (h : Frame w [] s t) (k : Frame w' [] t u) :
    Frame (w ++ w') [] s u where
  parts p hp hpc := by
    rw [List.mem_append, not_or] at hp
    have hst := h.parts p hp.1 hpc
    have htu := k.parts p hp.2 hpc
    cases p <;> exact htu.trans hst
  mem a ha := (k.mem a ha).trans (h.mem a ha)
  launch := k.launch.trans h.launch

/-- An update that leaves memory and the launch parameters alone. -/
theorem Frame.of_parts {w : List Part} {s t : State} (hp : ∀ p, p ∉ w → p ≠ .pc → p.same s t)
    (hm : t.mem = s.mem) (hl : t.launch = s.launch) : Frame w [] s t :=
  ⟨hp, sameMem_of_eq hl hm, hl⟩

theorem Frame.refl (s : State) : Frame [] [] s s :=
  .of_parts (fun p _ _ => by cases p <;> rfl) rfl rfl

theorem Frame.advance (s : State) (len : Nat) : Frame [] [] s (s.advance len) :=
  .of_parts (fun p _ hpc => by
    cases p with
    | pc => exact absurd rfl hpc
    | _ => rfl) rfl rfl

/-- An accumulator named by a postbyte (R90). -/
theorem Frame.write8 (s : State) {r : Reg8} (hr : r ≠ .ccr) (v : Byte) :
    Frame (Reg8.parts r) [] s (s.write8 r v) := by
  refine .of_parts (fun p hp _ => ?_) (by simp) (by simp)
  cases r with
  | a => cases p <;> simp_all [Part.same, Reg8.parts, State.write8]
  | b => cases p <;> simp_all [Part.same, Reg8.parts, State.write8]
  | ccr => exact absurd rfl hr

theorem Frame.setD (s : State) (v : Word) : Frame [.a, .b] [] s (s.setD v) :=
  .of_parts (fun p hp _ => by cases p <;> simp_all [Part.same]) rfl rfl

/-- The bits of CCR that an update writes (R38). -/
def FlagUpdate.parts (u : FlagUpdate) : List Part :=
  (if u.h.isSome then [.flagH] else []) ++ (if u.i.isSome then [.flagI] else []) ++
  (if u.n.isSome then [.flagN] else []) ++ (if u.z.isSome then [.flagZ] else []) ++
  (if u.v.isSome then [.flagV] else []) ++ (if u.c.isSome then [.flagC] else [])

theorem Frame.setFlags (s : State) (u : FlagUpdate) : Frame u.parts [] s (s.setFlags u) := by
  refine .of_parts (fun p hp _ => ?_) (by simp) (by simp)
  cases p <;> simp_all [Part.same, FlagUpdate.parts]

/-- Writing the flags and advancing, after an update with a frame. -/
theorem Frame.flagsAndAdvance {w : List Part} {s t : State} (h : Frame w [] s t) (u : FlagUpdate)
    (len : Nat) : Frame (w ++ u.parts) [] s ((t.setFlags u).advance len) := by
  simpa using (h.trans (.setFlags t u)).trans (.advance _ len)

/-- The parts that hold N, Z, V and C. -/
abbrev nzvcParts : List Part := [.flagN, .flagZ, .flagV, .flagC]

theorem Frame.nzvcAndAdvance {w : List Part} {s t : State} (h : Frame w [] s t) {n : Nat} (x : Alu n)
    (len : Nat) : Frame (w ++ nzvcParts) [] s ((t.setFlags x.nzvc).advance len) :=
  h.flagsAndAdvance x.nzvc len

theorem Frame.hnzvcAndAdvance {w : List Part} {s t : State} (h : Frame w [] s t) {n : Nat} (x : Alu n)
    (len : Nat) : Frame (w ++ .flagH :: nzvcParts) [] s ((t.setFlags x.hnzvc).advance len) :=
  h.flagsAndAdvance x.hnzvc len

/-! ### Results and their flags -/

theorem Runs.imp {i : Instr} {s : State} {p q : State → Prop} (h : Runs i s p)
    (hpq : ∀ t, p t → q t) : Runs i s q :=
  let ⟨t, ht, hp⟩ := h
  ⟨t, ht, hpq t hp⟩

/-- An 8-bit addition sets all five flags (R202). -/
theorem addFlags8_setFlags (a b : Byte) (c : Bool) (s : State) (len : Nat) :
    AddFlags a b c ((s.setFlags (addn a b c).hnzvc).advance len) ∧
      HalfCarry a b c ((s.setFlags (addn a b c).hnzvc).advance len) :=
  ⟨addFlags8_of (by simp [Alu.hnzvc]) (by simp [Alu.hnzvc]) (by simp [Alu.hnzvc])
    (by simp [Alu.hnzvc]), by simp [HalfCarry, Alu.hnzvc, addn]⟩

theorem addFlags16_setFlags (a b : Word) (s : State) (len : Nat) :
    AddFlags a b false ((s.setFlags (addn a b false).nzvc).advance len) :=
  addFlags16_of (by simp [Alu.nzvc]) (by simp [Alu.nzvc]) (by simp [Alu.nzvc]) (by simp [Alu.nzvc])

theorem subFlags8_setFlags (a b : Byte) (c : Bool) (s : State) (len : Nat) :
    SubFlags a b c ((s.setFlags (subn a b c).nzvc).advance len) :=
  subFlags8_of (by simp [Alu.nzvc]) (by simp [Alu.nzvc]) (by simp [Alu.nzvc]) (by simp [Alu.nzvc])

theorem subFlags16_setFlags (a b : Word) (s : State) (len : Nat) :
    SubFlags a b false ((s.setFlags (subn a b false).nzvc).advance len) :=
  subFlags16_of (by simp [Alu.nzvc]) (by simp [Alu.nzvc]) (by simp [Alu.nzvc]) (by simp [Alu.nzvc])

/-! ### Runs of each family -/

@[simp] theorem State.read8_after {w : Nat} (o : Opr w) (s : State) (r : Reg8) :
    (Opr.after o s).read8 r = s.read8 r := by
  cases r <;> simp [State.read8]

/-- An accumulator keeps what was written to it when the flags are written and the counter moves. -/
theorem State.read8_of_write8 (s : State) {r : Reg8} (hr : r ≠ .ccr) (v : Byte) (u : FlagUpdate)
    (len : Nat) : (((s.write8 r v).setFlags u).advance len).read8 r = v := by
  cases r with
  | a => rfl
  | b => rfl
  | ccr => exact absurd rfl hr

/-- An 8-bit addition to an accumulator, with the carry that `c` reads (R205 to R208). -/
theorem runs_addByte {i : Instr} {r : Reg8} (hr : r ≠ .ccr) {c : State → Bool} {o : Opr 8} {m : Byte}
    {s s1 : State} (h : operand8 (s.nextPc (1 + o.length)) o s = .next (m, s1))
    (hi : exec i s = withOperand8 o s fun m s1 =>
      (s1.write8 r (addn (s1.read8 r) m (c s1)).r).setFlags (addn (s1.read8 r) m (c s1)).hnzvc)
    (hc : c (Opr.after o s) = c s) :
    Runs i s fun t => t.read8 r = s.read8 r + m + BitVec.ofNat 8 (c s).toNat ∧
      AddFlags (s.read8 r) m (c s) t ∧ HalfCarry (s.read8 r) m (c s) t ∧ Past (1 + o.length) s t ∧
      Frame (Reg8.parts r ++ .flagH :: nzvcParts) [] (Opr.after o s) t := by
  refine runs_withOperand8 h hi ?_
  rw [State.read8_after, hc]
  obtain ⟨hflags, hhalf⟩ := addFlags8_setFlags (s.read8 r) m (c s)
    ((Opr.after o s).write8 r (addn (s.read8 r) m (c s)).r) (1 + o.length)
  exact ⟨(State.read8_of_write8 _ hr _ _ _).trans (addn_r _ _ _), hflags, hhalf, by simp [Past],
    (Frame.write8 _ hr _).hnzvcAndAdvance _ _⟩

/-- An 8-bit subtraction from an accumulator, with the borrow that `c` reads (R211 to R214). -/
theorem runs_subByte {i : Instr} {r : Reg8} (hr : r ≠ .ccr) {c : State → Bool} {o : Opr 8} {m : Byte}
    {s s1 : State} (h : operand8 (s.nextPc (1 + o.length)) o s = .next (m, s1))
    (hi : exec i s = withOperand8 o s fun m s1 =>
      (s1.write8 r (subn (s1.read8 r) m (c s1)).r).setFlags (subn (s1.read8 r) m (c s1)).nzvc)
    (hc : c (Opr.after o s) = c s) :
    Runs i s fun t => t.read8 r = s.read8 r - m - BitVec.ofNat 8 (c s).toNat ∧
      SubFlags (s.read8 r) m (c s) t ∧ Past (1 + o.length) s t ∧
      Frame (Reg8.parts r ++ nzvcParts) [] (Opr.after o s) t := by
  refine runs_withOperand8 h hi ?_
  rw [State.read8_after, hc]
  exact ⟨State.read8_of_write8 _ hr _ _ _, subFlags8_setFlags _ _ _ _ _, by simp [Past],
    (Frame.write8 _ hr _).nzvcAndAdvance _ _⟩

/-- A comparison of an 8-bit register, which `read` names, with the operand (R252, R253). -/
theorem runs_compareByte {i : Instr} {read : State → Byte} {o : Opr 8} {m : Byte} {s s1 : State}
    (h : operand8 (s.nextPc (1 + o.length)) o s = .next (m, s1))
    (hi : exec i s = withOperand8 o s fun m s1 => s1.setFlags (subn (read s1) m false).nzvc)
    (hread : read (Opr.after o s) = read s) :
    Runs i s fun t => SubFlags (read s) m false t ∧ Past (1 + o.length) s t ∧
      Frame nzvcParts [] (Opr.after o s) t := by
  refine runs_withOperand8 h hi ?_
  rw [hread]
  exact ⟨subFlags8_setFlags _ _ _ _ _, by simp [Past], (Frame.refl _).nzvcAndAdvance _ _⟩

/-- A comparison of a 16-bit register with the operand (R254 to R257). -/
theorem runs_compareWord {i : Instr} {read : State → Word} {o : Opr 16} {m : Word} {s s1 : State}
    (h : operand16 (s.nextPc (1 + o.length)) o s = .next (m, s1))
    (hi : exec i s = withOperand16 o s fun m s1 => s1.setFlags (subn (read s1) m false).nzvc)
    (hread : read (Opr.after o s) = read s) :
    Runs i s fun t => SubFlags (read s) m false t ∧ Past (1 + o.length) s t ∧
      Frame nzvcParts [] (Opr.after o s) t := by
  refine runs_withOperand16 h hi ?_
  rw [hread]
  exact ⟨subFlags16_setFlags _ _ _ _, by simp [Past], (Frame.refl _).nzvcAndAdvance _ _⟩

/-! ### The statements -/

theorem aba_adds (s : State) : Runs .aba s fun t => t.a = s.a + s.b ∧ AddFlags s.a s.b false t ∧
    HalfCarry s.a s.b false t ∧ Past 2 s t ∧
    Frame [.a, .flagH, .flagN, .flagZ, .flagV, .flagC] [] s t := by
  obtain ⟨hflags, hhalf⟩ :=
    addFlags8_setFlags s.a s.b false (s.setA (addn s.a s.b false).r) 2
  exact runs_done (len := 2) rfl ⟨(addn_r s.a s.b false).trans (BitVec.add_zero _), hflags, hhalf, rfl,
    (Frame.write8 s (r := .a) (by decide) _).hnzvcAndAdvance _ _⟩

/-- Settles O34: ABA directly, the others by `runs_addByte`, without a carry or with C. -/
theorem byteAdditionsSetAllFiveFlags : Obligations.ByteAdditionsSetAllFiveFlags := by
  refine ⟨aba_adds, fun o m s s1 h => ⟨?_, ?_, ?_, ?_⟩⟩
  · exact (runs_addByte (r := .a) (by decide) (c := fun _ => false) h rfl rfl).imp
      fun t ⟨hsum, hrest⟩ => ⟨hsum.trans (BitVec.add_zero _), hrest⟩
  · exact (runs_addByte (r := .b) (by decide) (c := fun _ => false) h rfl rfl).imp
      fun t ⟨hsum, hrest⟩ => ⟨hsum.trans (BitVec.add_zero _), hrest⟩
  · exact runs_addByte (r := .a) (by decide) (c := State.flagC) h rfl (Opr.after_flagC o s)
  · exact runs_addByte (r := .b) (by decide) (c := State.flagC) h rfl (Opr.after_flagC o s)

theorem sba_subtracts (s : State) : Runs .sba s fun t => t.a = s.a - s.b ∧
    SubFlags s.a s.b false t ∧ Past 2 s t ∧
    Frame [.a, .flagN, .flagZ, .flagV, .flagC] [] s t :=
  runs_done (len := 2) rfl ⟨BitVec.sub_zero _, subFlags8_setFlags _ _ _ _ _, rfl,
    (Frame.write8 s (r := .a) (by decide) _).nzvcAndAdvance _ _⟩

/-- Settles O35: SBA directly, the others by `runs_subByte`, without a borrow or with C. -/
theorem byteSubtractionsLeaveHalfCarry : Obligations.ByteSubtractionsLeaveHalfCarry := by
  refine ⟨sba_subtracts, fun o m s s1 h => ⟨?_, ?_, ?_, ?_⟩⟩
  · exact (runs_subByte (r := .a) (by decide) (c := fun _ => false) h rfl rfl).imp
      fun t ⟨hdiff, hrest⟩ => ⟨hdiff.trans (BitVec.sub_zero _), hrest⟩
  · exact (runs_subByte (r := .b) (by decide) (c := fun _ => false) h rfl rfl).imp
      fun t ⟨hdiff, hrest⟩ => ⟨hdiff.trans (BitVec.sub_zero _), hrest⟩
  · exact runs_subByte (r := .a) (by decide) (c := State.flagC) h rfl (Opr.after_flagC o s)
  · exact runs_subByte (r := .b) (by decide) (c := State.flagC) h rfl (Opr.after_flagC o s)

theorem addd_adds {o : Opr 16} {m : Word} {s s1 : State}
    (h : operand16 (s.nextPc (1 + o.length)) o s = .next (m, s1)) :
    Runs (.addd o) s fun t => mkWord t.a t.b = mkWord s.a s.b + m ∧
      AddFlags (mkWord s.a s.b) m false t ∧ Past (1 + o.length) s t ∧
      Frame [.a, .b, .flagN, .flagZ, .flagV, .flagC] [] (Opr.after o s) t := by
  refine runs_withOperand16 (f := fun m s1 =>
    (s1.setD (addn s1.d m false).r).setFlags (addn s1.d m false).nzvc) h rfl ?_
  rw [Opr.after_d]
  refine ⟨?_, addFlags16_setFlags _ _ _ _, by simp [Past], (Frame.setD _ _).nzvcAndAdvance _ _⟩
  calc mkWord (hiByte (addn s.d m false).r) (loByte (addn s.d m false).r)
      = (addn s.d m false).r := mkWord_hiByte_loByte _
    _ = s.d + m + 0#16 := addn_r _ _ _
    _ = mkWord s.a s.b + m := BitVec.add_zero _

theorem subd_subtracts {o : Opr 16} {m : Word} {s s1 : State}
    (h : operand16 (s.nextPc (1 + o.length)) o s = .next (m, s1)) :
    Runs (.subd o) s fun t => mkWord t.a t.b = mkWord s.a s.b - m ∧
      SubFlags (mkWord s.a s.b) m false t ∧ Past (1 + o.length) s t ∧
      Frame [.a, .b, .flagN, .flagZ, .flagV, .flagC] [] (Opr.after o s) t := by
  refine runs_withOperand16 (f := fun m s1 =>
    (s1.setD (subn s1.d m false).r).setFlags (subn s1.d m false).nzvc) h rfl ?_
  rw [Opr.after_d]
  refine ⟨?_, subFlags16_setFlags _ _ _ _, by simp [Past], (Frame.setD _ _).nzvcAndAdvance _ _⟩
  calc mkWord (hiByte (subn s.d m false).r) (loByte (subn s.d m false).r)
      = s.d - m - 0#16 := mkWord_hiByte_loByte _
    _ = mkWord s.a s.b - m := BitVec.sub_zero _

/-- Settles O36, by the lemma of each instruction. -/
theorem wordAdditionAndSubtractionOnD : Obligations.WordAdditionAndSubtractionOnD :=
  fun _ _ _ _ h => ⟨addd_adds h, subd_subtracts h⟩

theorem cba_compares (s : State) : Runs .cba s fun t => SubFlags s.a s.b false t ∧ Past 2 s t ∧
    Frame nzvcParts [] s t :=
  runs_done (len := 2) rfl
    ⟨subFlags8_setFlags _ _ _ _ _, rfl, (Frame.refl s).nzvcAndAdvance _ _⟩

/-- Settles O41: a compared register that the operand does not change reads as before the operand. -/
theorem comparesSetFlagsAlone : Obligations.ComparesSetFlagsAlone := by
  refine ⟨cba_compares, fun o m s s1 h => ⟨?_, ?_⟩, fun o m s s1 h =>
    ⟨?_, fun hbase => ?_, fun hbase => ?_, fun hbase => ?_⟩⟩
  · exact runs_compareByte (read := State.a) h rfl (Opr.after_a o s)
  · exact runs_compareByte (read := State.b) h rfl (Opr.after_b o s)
  · exact runs_compareWord (read := State.d) h rfl (Opr.after_d o s)
  · exact runs_compareWord (read := State.sp) h (unlessAutoBase_of_ne hbase)
      (Opr.after_reg o s .sp hbase)
  · exact runs_compareWord (read := State.x) h (unlessAutoBase_of_ne hbase)
      (Opr.after_reg o s .x hbase)
  · exact runs_compareWord (read := State.y) h (unlessAutoBase_of_ne hbase)
      (Opr.after_reg o s .y hbase)

end Sys2Proof.Machine
end

section
/-! PROOFS. The launch state, and CCR written as a byte (spec R35, R37, R42, R430). -/

namespace Sys2Proof.Machine

/-! ### The launch state -/

/-- Settles O11: an empty list is canonical. -/
theorem resetMemoryIsCanonical : Obligations.ResetMemoryIsCanonical := memWf_reset

/-- Settles O14: the masks are bits of the launch CCR, and the launch memory lists no byte. -/
theorem resetSetsStopAndInterruptMasks : Obligations.ResetSetsStopAndInterruptMasks :=
  ⟨by decide, by decide, by decide, fun _ => rfl⟩

/-! ### What a write of CCR leaves -/

/-- `writeCCR` in the bits of CCR (R37). -/
theorem ccrFrom_writeCcr (s : State) (v : Byte) : CcrFrom v s (s.writeCcr v) := by
  simp [CcrFrom]

/-- Where CCR holds a byte does not depend on what the other registers hold. -/
theorem CcrFrom.congr {v : Byte} {s s1 t t1 : State} (h : CcrFrom v s t)
    (hs : s1.flagX = s.flagX) (ht : t1.ccr = t.ccr) : CcrFrom v s1 t1 := by
  unfold CcrFrom State.flagS State.flagX State.flagH State.flagI State.flagN State.flagZ State.flagV
    State.flagC at *
  rwa [hs, ht]

theorem Frame.mono {w w' : List Part} {s t : State} (h : Frame w [] s t) (hw : w ⊆ w') :
    Frame w' [] s t :=
  ⟨fun p hp => h.parts p fun hmem => hp (hw hmem), h.mem, h.launch⟩

theorem Frame.writeCcr (s : State) (v : Byte) : Frame ccrParts [] s (s.writeCcr v) :=
  .of_parts (fun p hp _ => by cases p <;> simp_all [Part.same, ccrParts]) (by simp) (by simp)

theorem Frame.setSp (s : State) (v : Word) : Frame [.sp] [] s (s.setSp v) :=
  .of_parts (fun p hp _ => by cases p <;> simp_all [Part.same]) rfl rfl

/-- Any 8-bit register of a postbyte, CCR included. -/
theorem Frame.write8OrCcr (s : State) (r : Reg8) (v : Byte) :
    Frame (ccrParts ++ Reg8.parts r) [] s (s.write8 r v) := by
  by_cases hr : r = .ccr
  · subst hr
    exact (Frame.writeCcr s v).mono (List.subset_append_left _ _)
  · exact (Frame.write8 s hr v).mono (List.subset_append_right _ _)

/-! ### The writers of CCR -/

/-- An instruction that does nothing but write CCR and advance (R37). -/
theorem runs_writeCcr {i : Instr} {len : Nat} {v : Byte} {s : State}
    (hi : exec i s = Res.done len (s.writeCcr v)) :
    Runs i s fun t => CcrFrom v s t ∧ Past len s t ∧ Frame ccrParts [] s t :=
  runs_done hi ⟨(ccrFrom_writeCcr s v).congr rfl rfl, rfl, (Frame.writeCcr s v).trans (.advance _ len)⟩

/-- An instruction that does nothing but write flags and advance (R38). -/
theorem runs_setFlags {i : Instr} {len : Nat} {u : FlagUpdate} {s : State} {p : State → Prop}
    (hi : exec i s = Res.done len (s.setFlags u)) (hp : p ((s.setFlags u).advance len)) :
    Runs i s fun t => p t ∧ Past len s t ∧ Frame u.parts [] s t :=
  runs_done hi ⟨hp, by simp [Past], (Frame.refl s).flagsAndAdvance u len⟩

/-- Writing its own value to CCR leaves X (R37). -/
theorem State.write8_oldCcr_flagX (s : State) (r : Reg8) : (s.write8 r s.ccr).flagX = s.flagX := by
  cases r with
  | a | b => rfl
  | ccr => exact (s.writeCcr_flagX s.ccr).trans (Bool.and_self _)

/-- EXG with CCR: the register gets the old CCR, and CCR the register's old value
under the rule for X (R37, R160). -/
theorem exg_ccr_writes (r : Reg8) (s : State) :
    Runs (.exg (.r8 r) (.r8 .ccr)) s (fun t => CcrFrom (s.read8 r) s t ∧
      (r ≠ .ccr → t.read8 r = s.ccr) ∧ Past 2 s t ∧ Frame (ccrParts ++ Reg8.parts r) [] s t) := by
  refine runs_done (len := 2) (s1 := (s.write8 r s.ccr).writeCcr (s.read8 r)) rfl
    ⟨?_, fun hr => ?_, by simp [Past], ?_⟩
  · exact (ccrFrom_writeCcr (s.write8 r s.ccr) (s.read8 r)).congr (s.write8_oldCcr_flagX r).symm rfl
  · cases r with
    | a | b => rfl
    | ccr => exact absurd rfl hr
  · exact (((Frame.write8OrCcr s r _).trans (.writeCcr _ _)).trans (.advance _ 2)).mono (by simp)

/-- The order of its registers does not matter to EXG with CCR (R160). -/
theorem exec_exg_ccr_comm (r : Reg8) (s : State) :
    exec (.exg (.r8 .ccr) (.r8 r)) s = exec (.exg (.r8 r) (.r8 .ccr)) s := by
  cases r <;> rfl

/-- PULC: CCR from the byte at SP, which goes up by one (R177). -/
theorem pulc_writes {v : Byte} {s : State} (hv : HasByte s s.sp v) :
    Runs .pulc s (fun t => CcrFrom v s t ∧ t.sp = s.sp + 1 ∧ Past 1 s t ∧
      Frame (.sp :: ccrParts) [] s t) := by
  have hpull : pullByte s = .next (v, s.setSp (s.sp + 1)) := pullByte_eq_next.mpr ⟨hv, rfl⟩
  have hexec : exec .pulc s = Res.done 1 ((s.setSp (s.sp + 1)).writeCcr v) := by
    change andThen (pullByte s) _ = _
    rw [hpull]
    rfl
  exact runs_done hexec ⟨(ccrFrom_writeCcr (s.setSp _) v).congr rfl rfl, rfl, rfl,
    ((Frame.setSp s _).trans (.writeCcr _ v)).trans (.advance _ 1)⟩

/-- Settles O28: each writer of the whole CCR goes through `writeCcr`, each clearing instruction
through one bit of `setFlags`. -/
theorem ccrWritersKeepMaskXClear : Obligations.CcrWritersKeepMaskXClear := by
  refine fun s => ⟨runs_writeCcr rfl, fun _ => runs_writeCcr rfl, fun _ => runs_writeCcr rfl,
    fun r => ⟨exg_ccr_writes r s, ?_⟩, fun _ => ⟨runs_writeCcr rfl, runs_writeCcr rfl⟩,
    fun _ hv => pulc_writes hv, ?_, ?_, ?_⟩
  · unfold Runs
    rw [exec_exg_ccr_comm]
    exact exg_ccr_writes r s
  · exact runs_setFlags (i := .clc) (u := { c := some false }) (p := (·.flagC = false)) rfl (by simp)
  · exact runs_setFlags (i := .cli) (u := { i := some false }) (p := (·.flagI = false)) rfl (by simp)
  · exact runs_setFlags (i := .clv) (u := { v := some false }) (p := (·.flagV = false)) rfl (by simp)

/-- Settles O29: X does not rise in any instruction, and the mask $BF of ANDCC leaves it out. -/
theorem noInstructionSetsMaskX : Obligations.NoInstructionSetsMaskX := by
  refine ⟨fun i s t ht => (exec_keeps i s t ht).flagX, fun s => ?_⟩
  refine (runs_writeCcr (len := 2) (v := s.ccr &&& 0xBF) rfl).imp fun t ⟨hccr, _⟩ => ?_
  obtain ⟨_, hx, _⟩ := hccr
  simpa using hx

end Sys2Proof.Machine
end


section
/-! PROOFS. Where the program counter goes and which instructions write H (spec R27, R34, R38, R92,
R202, R301).

Until its closing advance an instruction leaves the program counter alone, and H unless it is one of
the few that write it: `Steady` says so of an update inside the instruction, `Ends` of the whole
instruction. As in `exec_keeps`, each operation and each shape has one lemma, and one case split over
the instructions, `exec_ends`, serves both statements. -/

namespace Sys2Proof.Machine

/-! ### The relations -/

/-- The instructions that may change H: the 8-bit additions and the writers of CCR (R34, R38, R202). -/
inductive Instr.WritesHalfCarry : Instr → Prop
  | aba : WritesHalfCarry .aba
  | adda (o : Opr 8) : WritesHalfCarry (.adda o)
  | addb (o : Opr 8) : WritesHalfCarry (.addb o)
  | adca (o : Opr 8) : WritesHalfCarry (.adca o)
  | adcb (o : Opr 8) : WritesHalfCarry (.adcb o)
  | tap : WritesHalfCarry .tap
  | pulc : WritesHalfCarry .pulc
  | andcc (ii : Byte) : WritesHalfCarry (.andcc ii)
  | orcc (ii : Byte) : WritesHalfCarry (.orcc ii)
  | tfr (r : Reg) : WritesHalfCarry (.tfr r (.r8 .ccr))
  | exgRight (r : Reg) : WritesHalfCarry (.exg r (.r8 .ccr))
  | exgLeft (r : Reg) : WritesHalfCarry (.exg (.r8 .ccr) r)

/-- An update inside an instruction: the program counter stands, and H where `w`, the licence to write
it, is not given. -/
structure Steady (w : Prop) (s u : State) : Prop where
  pc : u.pc = s.pc
  flagH : w ∨ u.flagH = s.flagH

/-- The end of an instruction of `len` bytes: past them, or by the branch offset further (R27, R301),
and with the old H where there is no licence to write it. -/
structure Ended (w : Prop) (offset : Option Word) (len : Nat) (s t : State) : Prop where
  pc : Past len s t ∨ ∃ rel, offset = some rel ∧ t.pc = s.pc + BitVec.ofNat 16 len + rel
  flagH : w ∨ t.flagH = s.flagH

/-- Every state that the result answers is an end of the instruction. -/
def Ends (w : Prop) (offset : Option Word) (len : Nat) (s : State) (r : Res State) : Prop :=
  ∀ t, r = .next t → Ended w offset len s t

section
variable {w : Prop} {offset : Option Word} {len : Nat} {s t u : State}

theorem Steady.of_same (hpc : u.pc = s.pc := by simp) (hh : u.flagH = s.flagH := by simp) :
    Steady w s u := ⟨hpc, .inr hh⟩

theorem Steady.of_writer (hw : w) (hpc : u.pc = s.pc := by simp) : Steady w s u := ⟨hpc, .inl hw⟩

theorem Steady.trans (h : Steady w s t) (k : Steady w t u) : Steady w s u where
  pc := k.pc.trans h.pc
  flagH := h.flagH.elim .inl fun hst => k.flagH.imp_right fun htu => htu.trans hst

/-! ### Updates whose effect on H is not in the layer of State -/

@[simp] theorem State.stepCounter_flagH (s : State) (c : Counter) (k : Int) :
    (s.stepCounter c k).2.flagH = s.flagH := by
  unfold State.flagH; rw [State.stepCounter_ccr]

@[simp] theorem State.failedFlags_flagH (s : State) (d : Bool) :
    (s.failedFlags d).flagH = s.flagH := by
  cases d <;> simp [State.failedFlags]

@[simp] theorem State.failedDivide_flagH (s : State) (d : Bool) :
    (s.failedDivide d).flagH = s.flagH := by
  simp [State.failedDivide]

@[simp] theorem State.failedDivide16_flagH (s : State) (d : Bool) :
    (s.failedDivide16 d).flagH = s.flagH := by
  simp [State.failedDivide16]

/-! ### Rows of R38 without H -/

@[simp] theorem nzv0_h {n : Nat} (r : BitVec n) : (nzv0 r).h = none := rfl
@[simp] theorem nzv0c0_h {n : Nat} (r : BitVec n) : (nzv0c0 r).h = none := rfl
@[simp] theorem zOnly_h (r : Word) : (zOnly r).h = none := rfl
@[simp] theorem clearFlags_h : clearFlags.h = none := rfl
@[simp] theorem Alu.nzvc_h {n : Nat} (x : Alu n) : x.nzvc.h = none := rfl
@[simp] theorem productFlags_h (p : BitVec 32) : (productFlags p).h = none := rfl
@[simp] theorem quotientFlags_h (q : Word) : (quotientFlags q).h = none := rfl

/-- A row without H leaves H (R10, R38). -/
theorem Steady.setFlags {f : FlagUpdate} (hf : f.h = none) : Steady w s (s.setFlags f) :=
  .of_same (hh := by simp [hf])

/-! ### Memory and the operands -/

theorem Steady.writeByte {a : Word} {v : Byte} (h : writeByte a v s = .next u) : Steady w s u := by
  obtain ⟨_, rfl⟩ := writeByte_eq_next.mp h
  exact .of_same

theorem Steady.writeWord {a v : Word} (h : writeWord a v s = .next u) : Steady w s u := by
  obtain ⟨_, rfl⟩ := writeWord_eq_next.mp h
  exact .of_same

theorem Steady.pushByte {v : Byte} (h : pushByte v s = .next u) : Steady w s u := by
  obtain ⟨_, rfl⟩ := pushByte_eq_next.mp h
  exact .of_same

theorem Steady.pushWord {v : Word} (h : pushWord v s = .next u) : Steady w s u := by
  obtain ⟨_, rfl⟩ := pushWord_eq_next.mp h
  exact .of_same

theorem Steady.pullByte {v : Byte} (h : pullByte s = .next (v, u)) : Steady w s u := by
  obtain ⟨_, rfl⟩ := pullByte_eq_next.mp h
  exact .of_same

theorem Steady.pullWord {v : Word} (h : pullWord s = .next (v, u)) : Steady w s u := by
  obtain ⟨_, rfl⟩ := pullWord_eq_next.mp h
  exact .of_same

theorem Steady.classAddress {c : IdxClass} {slot : Slot} {next ea : Word} {x : Idx}
    (h : classAddress c slot next x s = .next (ea, u)) : Steady w s u := by
  obtain rfl := idxAddress_state (classAddress_eq_next.mp h).2
  exact .of_same

theorem Steady.memAddress {c : IdxClass} {next ea : Word} {m : Mem}
    (h : memAddress c next m s = .next (ea, u)) : Steady w s u := by
  obtain rfl := memAddress_state h
  exact .of_same

theorem Steady.operand8 {next : Word} {o : Opr 8} {v : Byte}
    (h : operand8 next o s = .next (v, u)) : Steady w s u := by
  obtain rfl := operand8_state h
  exact .of_same

theorem Steady.operand16 {next : Word} {o : Opr 16} {v : Word}
    (h : operand16 next o s = .next (v, u)) : Steady w s u := by
  obtain rfl := operand16_state h
  exact .of_same

theorem Steady.moveAddress {slot : Slot} {next ea : Word} {m : MemX}
    (h : moveAddress slot next m s = .next (ea, u)) : Steady w s u := by
  obtain rfl := moveAddress_state h
  exact .of_same

theorem Steady.moveSource {n : Nat} {read : Word → State → Res (BitVec n)} {next : Word} {m : Mov n}
    {v : BitVec n} (h : moveSource read next m s = .next (v, u)) : Steady w s u := by
  obtain rfl := moveSource_state h
  unfold Mov.afterSource
  split
  · exact .of_same
  · exact .of_same

/-- A register named by a postbyte, CCR only with the licence to write H (R37, R154). -/
theorem Steady.write8 {r : Reg8} {v : Byte} (hw : r = .ccr → w) : Steady w s (s.write8 r v) := by
  cases r with
  | a | b => exact .of_same rfl rfl
  | ccr => exact .of_writer (hw rfl) rfl

/-! ### The shapes of instructions -/

theorem Ends.refused (e : Refusal) : Ends w offset len s (.refused e) := fun _ h => nomatch h

theorem Ends.andThen {α : Type} {r : Res α} {f : α → Res State}
    (h : ∀ a, r = .next a → Ends w offset len s (f a)) : Ends w offset len s (andThen r f) :=
  fun t ht =>
    let ⟨a, ha, hf⟩ := andThen_eq_next.mp ht
    h a ha t hf

/-- The closing advance: the only move of the program counter where there is no branch (R27). -/
theorem Ends.done (h : Steady w s u) : Ends w offset len s (Res.done len u) := by
  intro t ht
  obtain rfl := done_eq_next.mp ht
  exact ⟨.inl (congrArg (· + BitVec.ofNat 16 len) h.pc), h.flagH⟩

theorem Ends.unlessAutoBase {r : AutoBase} {b : Option AutoBase} {go : Res State}
    (h : Ends w offset len s go) : Ends w offset len s (unlessAutoBase r b go) :=
  fun t ht => h t (unlessAutoBase_eq_next.mp ht).2

theorem Ends.withOperand8 {o : Opr 8} {f : Byte → State → State} (hlen : len = 1 + o.length)
    (h : ∀ m s1, Steady w s1 (f m s1)) : Ends w offset len s (withOperand8 o s f) := by
  subst hlen
  exact .andThen fun (m, s1) ho => .done ((Steady.operand8 ho).trans (h m s1))

theorem Ends.withOperand16 {o : Opr 16} {f : Word → State → State} (hlen : len = 1 + o.length)
    (h : ∀ m s1, Steady w s1 (f m s1)) : Ends w offset len s (withOperand16 o s f) := by
  subst hlen
  exact .andThen fun (m, s1) ho => .done ((Steady.operand16 ho).trans (h m s1))

theorem Ends.storeByte {m : Mem} {v : Byte} (hlen : len = 1 + m.length) :
    Ends w offset len s (storeByte m v s) := by
  subst hlen
  exact .andThen fun (_, _) ha => .andThen fun _ hs =>
    .done (((Steady.memAddress ha).trans (.writeByte hs)).trans (.setFlags rfl))

theorem Ends.storeWord {m : Mem} {v : Word} (hlen : len = 1 + m.length) :
    Ends w offset len s (storeWord m v s) := by
  subst hlen
  exact .andThen fun (_, _) ha => .andThen fun _ hs =>
    .done (((Steady.memAddress ha).trans (.writeWord hs)).trans (.setFlags rfl))

theorem Ends.modifyByte {c : IdxClass} {m : Mem} {n : Nat} {f : Bool → Byte → Byte × FlagUpdate}
    (hlen : len = n) (hf : ∀ c v, (f c v).2.h = none) :
    Ends w offset len s (modifyByte c m n f s) := by
  subst hlen
  exact .andThen fun (_, _) ha => .andThen fun _ _ => .andThen fun _ hs =>
    .done (((Steady.memAddress ha).trans (.writeByte hs)).trans (.setFlags (hf _ _)))

theorem Ends.modifyMem {m : MemX} {f : Bool → Byte → Byte × FlagUpdate}
    (hlen : len = 1 + m.toMem.length) (hf : ∀ c v, (f c v).2.h = none) :
    Ends w offset len s (modifyMem m f s) := .modifyByte hlen hf

theorem Ends.modifyA {f : Bool → Byte → Byte × FlagUpdate} (hf : ∀ c v, (f c v).2.h = none) :
    Ends w offset 1 s (modifyA f s) :=
  .done (Steady.trans (t := s.setA _) .of_same (.setFlags (hf _ _)))

theorem Ends.modifyB {f : Bool → Byte → Byte × FlagUpdate} (hf : ∀ c v, (f c v).2.h = none) :
    Ends w offset 1 s (modifyB f s) :=
  .done (Steady.trans (t := s.setB _) .of_same (.setFlags (hf _ _)))

theorem Ends.modifyD {f : Bool → Word → Word × FlagUpdate} (hf : ∀ c v, (f c v).2.h = none) :
    Ends w offset 1 s (modifyD f s) :=
  .done (Steady.trans (t := s.setD _) .of_same (.setFlags (hf _ _)))

theorem Ends.loadAddress {write : Word → State → State} {x : Idx} (hlen : len = 1 + x.length)
    (h : ∀ ea s1, Steady w s1 (write ea s1)) : Ends w offset len s (loadAddress write x s) := by
  subst hlen
  exact .andThen fun (ea, s1) ha => .done ((Steady.classAddress ha).trans (h ea s1))

theorem Ends.move {n : Nat} {read : Word → State → Res (BitVec n)}
    {write : Word → BitVec n → State → Res State} {m : Mov n} (hlen : len = 2 + m.length)
    (hw : ∀ {a v} {s1 t : State}, write a v s1 = .next t → Steady w s1 t) :
    Ends w offset len s (move read write m s) := by
  subst hlen
  intro t ht
  obtain ⟨_, v, s1, b, s2, s3, hs, hd, h3, rfl⟩ := move_eq_next.mp ht
  exact Ends.done (((Steady.moveSource hs).trans (.moveAddress hd)).trans (hw h3)) _ rfl

theorem Ends.push {r : Res State} (h : ∀ {u}, r = .next u → Steady w s u) :
    Ends w offset len s (Machine.andThen r fun s1 => Res.done len s1) :=
  .andThen fun _ hr => .done (h hr)

theorem Ends.pull {α : Type} {r : Res (α × State)} {f : α → State → State}
    (h : ∀ {v u}, r = .next (v, u) → Steady w s u) (hf : ∀ v s1, Steady w s1 (f v s1)) :
    Ends w offset len s (Machine.andThen r fun (v, s1) => Res.done len (f v s1)) :=
  .andThen fun (v, s1) hr => .done ((h hr).trans (hf v s1))

/-- A branch ends past its bytes, or by its offset further (R301). -/
theorem Ends.branchIf {taken : Bool} {rel : Word} (h : Steady w s u) :
    Ends w (some rel) len s (branchIf taken len rel u) := by
  cases taken with
  | false => exact .done h
  | true =>
    intro t ht
    obtain rfl := branchIf_eq_next.mp ht
    refine ⟨.inr ⟨rel, rfl, ?_⟩, h.flagH⟩
    calc u.pc + rel + BitVec.ofNat 16 len
        = u.pc + BitVec.ofNat 16 len + rel := by ac_rfl
      _ = s.pc + BitVec.ofNat 16 len + rel := by rw [h.pc]

theorem Ends.branchOnByte {m : Mem} {taken : Byte → Bool} {rr : Byte} (hlen : len = 3 + m.length) :
    Ends w (some (sext16 rr)) len s (branchOnByte m taken rr s) := by
  subst hlen
  exact .andThen fun (_, _) ha => .andThen fun _ _ => .branchIf (.memAddress ha)

/-! ### The instructions with a shape of their own -/

theorem execTfr_ends (r R : Reg) :
    Ends (Instr.WritesHalfCarry (.tfr r R)) offset 2 s (execTfr r R s) := by
  refine .done ?_
  cases r <;> cases R
  case r8.r8 r R => exact .write8 fun hR => hR ▸ .tfr _
  case r8.r16 => exact .of_same
  case r16.r8 r R => exact .write8 fun hR => hR ▸ .tfr _
  case r16.r16 => exact .of_same

theorem execExg_ends (r R : Reg) :
    Ends (Instr.WritesHalfCarry (.exg r R)) offset 2 s (execExg r R s) := by
  cases r <;> cases R
  case r8.r8 r R =>
    have hr : r = .ccr → Instr.WritesHalfCarry (.exg (.r8 r) (.r8 R)) := fun hr => hr ▸ .exgLeft _
    have hR : R = .ccr → Instr.WritesHalfCarry (.exg (.r8 r) (.r8 R)) := fun hR => hR ▸ .exgRight _
    exact .done ((Steady.write8 hr).trans (.write8 hR))
  case r16.r16 => exact .done .of_same
  case r8.r16 => exact .refused _
  case r16.r8 => exact .refused _

theorem execDaa_ends : Ends w offset 2 s (execDaa s) := by
  unfold execDaa
  split <;> exact .done .of_same

theorem execTst_ends {m : MemX} (hlen : len = 1 + m.toMem.length) :
    Ends w offset len s (execTst m s) := by
  subst hlen
  exact .andThen fun (_, _) ha => .andThen fun _ _ =>
    .done ((Steady.memAddress ha).trans (.setFlags rfl))

theorem execClr_ends {m : MemX} (hlen : len = 1 + m.toMem.length) :
    Ends w offset len s (execClr m s) := by
  subst hlen
  exact .andThen fun (_, _) ha => .andThen fun _ hs =>
    .done (((Steady.memAddress ha).trans (.writeByte hs)).trans (.setFlags rfl))

theorem execEdiv_ends : Ends w offset 1 s (execEdiv s) := by
  unfold execEdiv
  extract_lets n d q
  split
  · exact .done .of_same
  · split <;> exact .done .of_same

theorem execEdivs_ends : Ends w offset 2 s (execEdivs s) := by
  unfold execEdivs
  extract_lets n d q
  split
  · exact .done .of_same
  · split <;> exact .done .of_same

theorem execIdivs_ends : Ends w offset 2 s (execIdivs s) := by
  unfold execIdivs
  extract_lets n d q
  split
  · exact .done .of_same
  · split <;> exact .done .of_same

theorem execFdiv_ends : Ends w offset 2 s (execFdiv s) := by
  unfold execFdiv
  extract_lets n d q
  split <;> exact .done .of_same

theorem execIdiv_ends : Ends w offset 2 s (execIdiv s) := by
  unfold execIdiv
  split <;> exact .done .of_same

end

/-! ### Every instruction -/

/-- A memory operand's encoding with mask and offset bytes behind it (R74). -/
theorem Mem.encode_append_length (d e x : Byte) (m : Mem) (bs : List Byte) :
    (m.encode d e x ++ bs).length = 1 + bs.length + m.length := by
  rw [List.length_append, m.encode_length]
  omega

/-- An indexed operand's encoding behind its opcode (R74). -/
theorem Idx.cons_encode_length (op : Byte) (x : Idx) : (op :: x.encode).length = 1 + x.length := by
  rw [List.length_cons, x.encode_length, Nat.add_comm]

/-- Every instruction moves the program counter by its closing advance and its branch alone (R27, R301),
and writes H only if it is one of the writers of H (R34, R38, R202). -/
theorem exec_ends (i : Instr) (s : State) :
    Ends (Instr.WritesHalfCarry i) (Instr.branchOffset i) (encode i).length s (exec i s) := by
  unfold exec
  cases i with
  | ldaa _ | ldab _ | sbca _ | sbcb _ | suba _ | subb _ | cmpa _ | cmpb _ | anda _ | andb _ | eora _
  | eorb _ | oraa _ | orab _ | bita _ | bitb _ =>
    exact .withOperand8 (encodeOpr8_length ..) fun _ _ => .of_same
  | adca o => exact .withOperand8 (encodeOpr8_length ..) fun _ _ => .of_writer (.adca o)
  | adcb o => exact .withOperand8 (encodeOpr8_length ..) fun _ _ => .of_writer (.adcb o)
  | adda o => exact .withOperand8 (encodeOpr8_length ..) fun _ _ => .of_writer (.adda o)
  | addb o => exact .withOperand8 (encodeOpr8_length ..) fun _ _ => .of_writer (.addb o)
  | ldd _ | addd _ | subd _ | cpd _ =>
    exact .withOperand16 (encodeOpr16_length ..) fun _ _ => .of_same
  | lds _ | ldx _ | ldy _ | cps _ | cpx _ | cpy _ =>
    exact .unlessAutoBase (.withOperand16 (encodeOpr16_length ..) fun _ _ => .of_same)
  | leas _ | leax _ | leay _ =>
    exact .unlessAutoBase (.loadAddress (Idx.cons_encode_length ..) fun _ _ => .of_same)
  | staa _ | stab _ => exact .storeByte (Mem.encode_length ..)
  | std _ => exact .storeWord (Mem.encode_length ..)
  | sts _ | stx _ | sty _ => exact .unlessAutoBase (.storeWord (Mem.encode_length ..))
  | tab | tba | tpa | tsx | tsy | txs | tys | xgdx | xgdy | sex _ _ | abx | aby | sba | des | dex
  | dey | ins | inx | iny | cba | tsta | tstb | emul | emuls | mul | clc | cli | clra | clrb | clv =>
    exact .done .of_same
  | aba => exact .done (.of_writer .aba)
  | tap => exact .done (.of_writer .tap)
  | andcc ii => exact .done (.of_writer (.andcc ii))
  | orcc ii => exact .done (.of_writer (.orcc ii))
  | tfr r R => exact execTfr_ends r R
  | exg r R => exact execExg_ends r R
  | movb m => exact .move (encodeMovb_length m) Steady.writeByte
  | movw m => exact .move (encodeMovw_length m) Steady.writeWord
  | psha | pshb | pshc => exact .push Steady.pushByte
  | pshd | pshx | pshy => exact .push Steady.pushWord
  | pula | pulb => exact .pull Steady.pullByte fun _ _ => .of_same
  | pulc => exact .pull Steady.pullByte fun _ _ => .of_writer .pulc
  | puld | pulx | puly => exact .pull Steady.pullWord fun _ _ => .of_same
  | daa => exact execDaa_ends
  | tst _ => exact execTst_ends (MemX.encode_length ..)
  | clr _ => exact execClr_ends (MemX.encode_length ..)
  | ediv => exact execEdiv_ends
  | edivs => exact execEdivs_ends
  | fdiv => exact execFdiv_ends
  | idiv => exact execIdiv_ends
  | idivs => exact execIdivs_ends
  | dec _ | inc _ | com _ | neg _ | lsl _ | lsr _ | asl _ | asr _ | rol _ | ror _ =>
    exact .modifyMem (MemX.encode_length ..) fun _ _ => rfl
  | deca | inca | coma | nega | lsla | lsra | asla | asra | rola | rora =>
    exact .modifyA fun _ _ => rfl
  | decb | incb | comb | negb | lslb | lsrb | aslb | asrb | rolb | rorb =>
    exact .modifyB fun _ _ => rfl
  | lsld | lsrd | asld => exact .modifyD fun _ _ => rfl
  | bclr _ _ | bset _ _ => exact .modifyByte (Mem.encode_append_length ..) fun _ _ => rfl
  | bra _ | brn _ | bcc _ | bcs _ | beq _ | bmi _ | bne _ | bpl _ | bvc _ | bvs _ | bhi _ | bhs _
  | blo _ | bls _ | bge _ | bgt _ | ble _ | blt _ | lbra _ | lbrn _ | lbcc _ | lbcs _ | lbeq _
  | lbmi _ | lbne _ | lbpl _ | lbvc _ | lbvs _ | lbhi _ | lbhs _ | lblo _ | lbls _ | lbge _
  | lbgt _ | lble _ | lblt _ | tbeq _ _ | tbne _ _ => exact .branchIf (.of_same rfl rfl)
  | brclr _ _ _ | brset _ _ _ => exact .branchOnByte (Mem.encode_append_length ..)
  | dbeq _ _ | dbne _ _ | ibeq _ _ | ibne _ _ => exact .branchIf .of_same

/-! ### The statements -/

/-- Settles O9, by the program counter's half of `exec_ends`; a term without an encoding is no
exception. -/
theorem programCounterMovesByLengthOrOffset : Obligations.ProgramCounterMovesByLengthOrOffset :=
  fun i s t _ ht => (exec_ends i s t ht).pc

/-- Settles O30, by the other half of `exec_ends`: who changes H has the licence to. -/
theorem halfCarryHasFewWriters : Obligations.HalfCarryHasFewWriters := by
  intro i s t ht hne
  have hwrites : Instr.WritesHalfCarry i := (exec_ends i s t ht).flagH.resolve_right hne
  cases hwrites <;> simp

end Sys2Proof.Machine
end


section
/-! PROOFS. A step runs what the bytes at the program counter decode to (spec R70, R73, R435).

The fetch reads six bytes. `ReadsAtMost` bounds what a parser can have consumed; on the opcode maps it
gives R70's limit of six bytes, so that the fetch has read at least the bytes decoded, and by
`stable_decode` the bytes behind them do not matter. -/

namespace Sys2Proof

namespace Row

/-! ### How many bytes a parser can have read -/

/-- Where the parser succeeds it has taken at most `n` bytes off the list. -/
def ReadsAtMost {α : Type} (n : Nat) (p : Parser α) : Prop :=
  ∀ bs rest a, p bs = .ok (a, rest) → bs.length ≤ n + rest.length

theorem readsAtMost_done {α : Type} (n : Nat) (a : α) : ReadsAtMost n (done a) := by
  intro bs rest b h
  obtain ⟨_, rfl⟩ := done_eq_ok.mp h
  exact Nat.le_add_left _ _

theorem readsAtMost_reject {α : Type} (n : Nat) (e : DecodeError) :
    ReadsAtMost n (reject (α := α) e) := fun _ _ _ h => nomatch h

theorem readsAtMost_byte : ReadsAtMost 1 byte := by
  intro bs rest b h
  rw [byte_eq_ok.mp h, List.length_cons, Nat.add_comm]

theorem readsAtMost_word : ReadsAtMost 2 word := by
  intro bs rest w h
  rw [word_eq_ok.mp h, List.length_append]
  exact le_rfl

/-- The longest indexed operand has two extension bytes (R88). -/
theorem readsAtMost_idx (c : IdxClass) : ReadsAtMost 3 (idx c) := by
  intro bs rest x h
  obtain ⟨rfl, _⟩ := idx_eq_ok.mp h
  rw [List.length_append, x.encode_length]
  exact Nat.add_le_add_right x.length_le _

/-- Class IDX-short has no extension bytes (R89). -/
theorem readsAtMost_idx_short : ReadsAtMost 1 (idx .short) := by
  intro bs rest x h
  obtain ⟨rfl, hx⟩ := idx_eq_ok.mp h
  rw [List.length_append, Idx.length_of_short hx]

/-- Two parsers in a row read what both may. -/
theorem ReadsAtMost.bind {α β : Type} {n m : Nat} {p : Parser α} {q : α → Parser β}
    (hp : ReadsAtMost n p) (hq : ∀ a, ReadsAtMost m (q a)) : ReadsAtMost (m + n) (bind p q) := by
  intro bs rest b h
  obtain ⟨a, mid, h1, h2⟩ := bind_eq_ok.mp h
  have hpmid := hp bs mid a h1
  have hqrest := hq a mid rest b h2
  omega

/-! ### The opcode maps -/

theorem readsAtMost_transferRow (n : Nat) : ReadsAtMost (n + 1) transferRow := by
  refine readsAtMost_byte.bind fun eb => ?_
  split
  · split
    · exact readsAtMost_done _ _
    · split
      · exact readsAtMost_done _ _
      · exact readsAtMost_reject _ _
  · exact readsAtMost_reject _ _

theorem readsAtMost_loopRow (n : Nat) : ReadsAtMost (n + 2) loopRow := by
  refine readsAtMost_byte.bind (m := n + 1) fun lb => ?_
  split
  · exact readsAtMost_byte.bind fun _ => readsAtMost_done _ _
  · exact readsAtMost_reject _ _

/-- Behind its two opcode bytes a page-2 instruction has at most four more (R70, R95): each operand
that a row reads is taken from that budget. -/
theorem readsAtMost_page2Map : ∀ row ∈ page2Map, ∀ p ∈ row, ReadsAtMost 4 p := by
  simp only [page2Map, List.forall_mem_cons]
  repeat' refine And.intro ?_ ?_
  all_goals repeat' first
    | exact fun _ h => absurd h List.not_mem_nil
    | exact readsAtMost_done _ _
    | exact readsAtMost_reject _ _
    | refine readsAtMost_byte.bind fun _ => ?_
    | refine readsAtMost_word.bind fun _ => ?_
    | refine readsAtMost_idx_short.bind fun _ => ?_

theorem readsAtMost_page2 (op : Byte) : ReadsAtMost 4 (page2 op) := by
  unfold page2
  split
  · next row hr =>
    split
    · next p hp =>
      exact readsAtMost_page2Map row (List.mem_of_getElem? hr) p (List.mem_of_getElem? hp)
    · exact readsAtMost_reject _ _
  · split
    · split <;> exact readsAtMost_reject _ _
    · exact readsAtMost_reject _ _

/-- Behind its opcode a page-1 instruction has at most five more bytes (R70, R94). -/
theorem readsAtMost_page1Map : ∀ row ∈ page1Map, ∀ p ∈ row, ReadsAtMost 5 p := by
  simp only [page1Map, List.forall_mem_cons]
  repeat' refine And.intro ?_ ?_
  all_goals repeat' first
    | exact fun _ h => absurd h List.not_mem_nil
    | exact readsAtMost_done _ _
    | exact readsAtMost_reject _ _
    | exact readsAtMost_transferRow 4
    | exact readsAtMost_loopRow 3
    | exact readsAtMost_byte.bind readsAtMost_page2
    | refine readsAtMost_byte.bind fun _ => ?_
    | refine readsAtMost_word.bind fun _ => ?_
    | refine (readsAtMost_idx _).bind fun _ => ?_

theorem readsAtMost_page1 (op : Byte) : ReadsAtMost 5 (page1 op) := by
  unfold page1
  split
  · next row hr =>
    split
    · next p hp =>
      exact readsAtMost_page1Map row (List.mem_of_getElem? hr) p (List.mem_of_getElem? hp)
    · exact readsAtMost_reject _ _
  · exact readsAtMost_reject _ _

/-- No instruction is decoded from more than six bytes (R70). -/
theorem readsAtMost_decode : ReadsAtMost 6 decode :=
  (readsAtMost_byte.bind readsAtMost_page1).bind fun _ => readsAtMost_done 0 _

end Row

namespace Machine

/-- Bytes that decode to an instruction with nothing left over, placed at the program counter, are the
ones the fetch decodes, whatever follows them (R70, R73). -/
theorem fetchInstr_of_placed {bs : List Byte} {i : Instr} {s : State} (hd : decode bs = .ok (i, []))
    (hp : Placed bs s.pc s) : fetchInstr s = .next i := by
  have hlength : bs.length ≤ 6 := Row.readsAtMost_decode bs [] i hd
  obtain ⟨rest, hfetch⟩ := fetchBytes_of_placed hp hlength
  exact fetchInstr_eq_next.mpr ⟨rest, hfetch ▸ Row.stable_decode.ok bs rest [] i hd⟩

/-- Settles O6: short of `END_PC` a step is the fetch and then `exec`. -/
theorem stepRunsTheDecodedInstruction : Obligations.StepRunsTheDecodedInstruction := by
  intro bs i s hd _ hp hend
  rw [step, if_neg hend, fetchInstr_of_placed hd hp, andThen_next]

end Machine

end Sys2Proof
end

section
/-! PROOFS. Memory and the offset addresses (spec R50 to R58, R65, R80 to R86). -/

namespace Sys2Proof.Machine

/-! ### Memory -/

/-- Settles O10, by the half of `step_keeps` that speaks of the canonical form. -/
theorem stepKeepsMemoryCanonical : Obligations.StepKeepsMemoryCanonical :=
  fun s t hs ht => (step_keeps s t ht).canonical hs

/-- A word store leaves its two bytes readable, and reading them gives the word (R51, R54). -/
theorem hasWord_of_writeWord {a w : Word} {s t : State} (h : writeWord a w s = .next t) :
    HasWord t a w := by
  obtain ⟨hcan, rfl⟩ := writeWord_eq_next.mp h
  exact hasWord_of_memSet hcan rfl rfl

theorem sameMemOutside_of_writeWord {a w : Word} {s t : State} (h : writeWord a w s = .next t) :
    SameMemOutside [a, a + 1] s t := by
  obtain ⟨_, rfl⟩ := writeWord_eq_next.mp h
  exact sameMem_of_memSet2 rfl rfl

/-- Settles O15: a word store leaves its word readable, and no byte beside the two reads
otherwise. -/
theorem readAfterWriteIsBigEndian : Obligations.ReadAfterWriteIsBigEndian := by
  refine ⟨fun a b v s t h => readByte_writeByte h, fun a w s t h => ?_⟩
  have hword : HasWord t a w := hasWord_of_writeWord h
  have ⟨hhi, hlo⟩ := hword
  exact ⟨hhi, hlo, readWord_eq_next.mpr hword, sameMemOutside_of_writeWord h⟩

theorem writeByte_of_text {s : State} {a : Word} (h : s.launch.isText a = true) (v : Byte) :
    writeByte a v s = .refused (.textStore a) := if_pos h

/-- A read of a RAM byte without a value faults (R58). -/
theorem readByte_of_no_value {s : State} {a : Word} (hk : s.launch.kindOf a = .ram)
    (hm : memGet s.mem a.toNat = none) : readByte a s = .fault (.noValue a) := by
  simp [readByte, hk, hm]

/-- Settles O16, class by class. -/
theorem regionsAdmitReadsAndWrites : Obligations.RegionsAdmitReadsAndWrites := by
  intro s a v
  refine ⟨fun htext => writeByte_of_text htext v, ?_⟩
  split
  next hk =>
    exact ⟨fun u hu => readByte_eq_next.mpr ⟨.inl hk, hu⟩, readByte_of_no_value hk,
      fun ht => ⟨_, writeByte_eq_next.mpr ⟨⟨hk, ht⟩, rfl⟩, memGet_memSet_same _ _ _⟩⟩
  next hk =>
    exact ⟨fun u hu => readByte_eq_next.mpr ⟨.inr hk, hu⟩, fun ht => by simp [writeByte, ht, hk]⟩
  next hk =>
    exact ⟨by simp [readByte, hk], fun ht => by simp [writeByte, ht, hk]⟩
  next hk =>
    exact ⟨by simp [readByte, hk], fun ht => by simp [writeByte, ht, hk]⟩

/-! ### Offset addresses -/

/-- X, Y and SP are their own base values (R81). -/
theorem baseValue_of_register {slot : Slot} {next base : Word} {r : IdxBase} {s : State}
    (h : (r = .x ∧ base = s.x) ∨ (r = .y ∧ base = s.y) ∨ (r = .sp ∧ base = s.sp)) :
    baseValue slot next r s = .next base := by
  obtain ⟨rfl, rfl⟩ | ⟨rfl, rfl⟩ | ⟨rfl, rfl⟩ := h <;> rfl

/-- Adding a sign-extended offset adds its signed value, modulo 2^16 (R9, R52). -/
theorem add_sext16 {n : Nat} (a : Word) (v : BitVec n) :
    a + sext16 v = BitVec.ofInt 16 (a.toNat + v.toInt) := by
  rw [BitVec.ofInt_add, BitVec.ofInt_natCast, BitVec.ofNat_toNat, BitVec.setWidth_eq]
  rfl

/-- Adding a zero-extended byte adds its unsigned value, modulo 2^16 (R9, R52). -/
theorem add_zext16 (a : Word) (v : Byte) :
    a + zext16 v = BitVec.ofNat 16 (a.toNat + v.toNat) := by
  rw [BitVec.ofNat_add, BitVec.ofNat_toNat, BitVec.ofNat_toNat, BitVec.setWidth_eq]
  rfl

/-- Adding D adds the number of its two accumulators, modulo 2^16 (R22, R52). -/
theorem add_d (a : Word) (s : State) :
    a + s.d = BitVec.ofNat 16 (a.toNat + (s.a.toNat * 256 + s.b.toNat)) := by
  rw [← mkWord_toNat, BitVec.ofNat_add, BitVec.ofNat_toNat, BitVec.ofNat_toNat, BitVec.setWidth_eq,
    BitVec.setWidth_eq]
  rfl

/-- Settles O17: each of these sub-forms adds its offset to the base value and does nothing else. -/
theorem offsetAddressesAddToTheBase : Obligations.OffsetAddressesAddToTheBase := by
  intro slot next base r s hreg
  have hbase : baseValue slot next r s = .next base := baseValue_of_register hreg
  simp only [idxAddress, hbase, andThen_next, State.accOffset, add_sext16, add_zext16, add_d,
    implies_true, and_self]

end Sys2Proof.Machine
end

section
/-! PROOFS. A step runs the instruction whose encoding stands at the program counter, and no other
(spec R65, R73, R96, R435).

The decoder reads an encoding back under the general name of the instruction
(`decodeGeneral_encode`) and accepts nothing but encodings (`decodeGeneral_eq_ok`); the names that
R96 gives to one encoding have one meaning (`exec_named`, `exec_general`). The step's two directions
follow. -/

namespace Sys2Proof

namespace Machine

/-! ### The names of one encoding (R96) -/

/-- A mask on CCR is an update of flags, where it is one bit for bit (R37, R353). -/
theorem writeCcr_and_eq_setFlags {m : Byte} {u : FlagUpdate}
    (h : ∀ v : Byte, ((v &&& m) &&& 0b10111111#8) ||| (v &&& (v &&& m) &&& 0b01000000#8) =
      packCcr (v.getLsbD 7) (v.getLsbD 6) (u.h.getD (v.getLsbD 5)) (u.i.getD (v.getLsbD 4))
        (u.n.getD (v.getLsbD 3)) (u.z.getD (v.getLsbD 2)) (u.v.getD (v.getLsbD 1))
        (u.c.getD (v.getLsbD 0))) (s : State) :
    s.writeCcr (s.ccr &&& m) = s.setFlags u :=
  congrArg (s.setCcr ·) (h s.ccr)

theorem exec_clc_eq_andcc (s : State) : exec .clc s = exec (.andcc 0xFE) s :=
  congrArg (Res.done 2) (writeCcr_and_eq_setFlags (by decide) s).symm

theorem exec_cli_eq_andcc (s : State) : exec .cli s = exec (.andcc 0xEF) s :=
  congrArg (Res.done 2) (writeCcr_and_eq_setFlags (by decide) s).symm

theorem exec_clv_eq_andcc (s : State) : exec .clv s = exec (.andcc 0xFD) s :=
  congrArg (Res.done 2) (writeCcr_and_eq_setFlags (by decide) s).symm

theorem exec_des_eq_leas (s : State) : exec .des s = exec (.leas (.off5 .sp (-1))) s := by
  have hminus : s.sp - 1 = s.sp + sext16 (-1 : BitVec 5) := BitVec.sub_eq_add_neg s.sp 1
  exact congrArg (fun v => Res.done 2 (s.setSp v)) hminus

/-- The name that the decoder reports means what the general name means (R96). -/
theorem exec_named (i : Instr) (s : State) : exec i.named s = exec i s := by
  cases i with
  | tfr r R =>
    cases r with
    | r8 r => cases R with | r8 R => cases r <;> cases R <;> rfl | r16 R => cases r <;> rfl
    | r16 r => cases R with | r8 R => cases r <;> rfl | r16 R => cases r <;> cases R <;> rfl
  | exg r R =>
    cases r with
    | r8 r => rfl
    | r16 r => cases R with | r8 R => cases r <;> rfl | r16 R => cases r <;> cases R <;> rfl
  | leax x | leay x =>
    dsimp only [Instr.named]
    split
    · next hx => subst hx; rfl
    · rfl
  | leas x =>
    dsimp only [Instr.named]
    split_ifs with hdes hins
    · subst hdes; exact exec_des_eq_leas s
    · subst hins; rfl
    · rfl
  | andcc ii =>
    dsimp only [Instr.named]
    split_ifs with hclc hcli hclv
    · subst hclc; exact exec_clc_eq_andcc s
    · subst hcli; exact exec_cli_eq_andcc s
    · subst hclv; exact exec_clv_eq_andcc s
    · rfl
  | _ => rfl

/-- A second name means what the general name means (R96). -/
theorem exec_general (i : Instr) (s : State) : exec i.general s = exec i s := by
  cases i with
  | tap | tpa | tsx | tsy | txs | tys | xgdx | xgdy | abx | aby | des | ins | clc | cli | clv =>
    exact (exec_named _ s).symm
  | _ => rfl

/-- The name that the decoder reports for an instruction's bytes means what the instruction means
(R96). -/
theorem exec_canonical (i : Instr) (s : State) : exec i.canonical s = exec i s :=
  (exec_named i.general s).trans (exec_general i s)

end Machine

namespace Row

/-! ### Every encoding is read back (R73, R74) -/

/-- The bytes of a well-formed instruction, whatever follows them, are read under its general name
(R73, R96). -/
theorem decodeGeneral_encode (i : Instr) (h : i.WellFormed) (rest : List Byte) :
    decodeGeneral (encode i ++ rest) = .ok (i.general, rest) := by
  cases i with
  | ldaa o | ldab o | adca o | adcb o | adda o | addb o | sbca o | sbcb o | suba o | subb o | cmpa o
  | cmpb o | anda o | andb o | eora o | eorb o | oraa o | orab o | bita o | bitb o =>
    exact opr8_encode rfl rfl rfl rfl o rest
  | ldd o | lds o | ldx o | ldy o | addd o | subd o | cpd o | cps o | cpx o | cpy o =>
    exact opr16_encode rfl rfl rfl rfl o rest
  | leas x | leax x | leay x => exact lea_encode rfl x h rest
  | staa m | stab m | std m | sts m | stx m | sty m => exact mem_encode rfl rfl rfl m rest
  | dec m | inc m | tst m | clr m | com m | neg m | lsl m | lsr m | asl m | asr m | rol m | ror m =>
    exact memX_encode rfl rfl m rest
  | tfr r R => exact tfr_encode r R rest
  | sex r R => exact tfr_encode (.r8 r) (.r16 R) rest
  | exg r R => exact exg_encode r R h rest
  | movb m => exact movb_encode m h rest
  | movw m => exact movw_encode m h rest
  | bclr m mm | bset m mm => exact bit_encode rfl rfl rfl m mm h rest
  | brclr m mm rr | brset m mm rr => exact bitBranch_encode rfl rfl rfl m mm rr h rest
  | lbra qr | lbrn qr | lbcc qr | lbcs qr | lbeq qr | lbmi qr | lbne qr | lbpl qr | lbvc qr
  | lbvs qr | lbhi qr | lbhs qr | lblo qr | lbls qr | lbge qr | lbgt qr | lble qr | lblt qr =>
    exact rel16_encode rfl qr rest
  | dbeq c rel | dbne c rel | ibeq c rel | ibne c rel | tbeq c rel | tbne c rel =>
    exact loop_encode rfl c rel rest
  | _ => rfl

/-- An encoding decodes to the name that the decoder reports for it (R96). -/
theorem decode_encode (i : Instr) (h : i.WellFormed) (rest : List Byte) :
    decode (encode i ++ rest) = .ok (i.canonical, rest) :=
  bind_of_ok (decodeGeneral_encode i h rest)

/-! ### Nothing else is read (R97) -/

/-- Behind the bytes `pre` the parser accepts the rest of an encoding alone, and answers the
instruction that it encodes. -/
def Accepts (pre : List Byte) (p : Parser Instr) : Prop :=
  ∀ bs rest i, p bs = .ok (i, rest) → i.WellFormed ∧ pre ++ bs = encode i ++ rest

theorem accepts_done {pre : List Byte} {i : Instr} (hi : i.WellFormed) (he : encode i = pre) :
    Accepts pre (done i) := by
  intro bs rest j h
  obtain ⟨rfl, rfl⟩ := done_eq_ok.mp h
  exact ⟨hi, by rw [he]⟩

theorem accepts_reject (pre : List Byte) (e : DecodeError) : Accepts pre (reject e) :=
  fun _ _ _ h => nomatch h

theorem accepts_byte {pre : List Byte} {q : Byte → Parser Instr}
    (hq : ∀ b, Accepts (pre ++ [b]) (q b)) : Accepts pre (bind byte q) := by
  intro bs rest i h
  obtain ⟨b, mid, hb, hmid⟩ := bind_eq_ok.mp h
  obtain rfl := byte_eq_ok.mp hb
  simpa using hq b mid rest i hmid

theorem accepts_word {pre : List Byte} {q : Word → Parser Instr}
    (hq : ∀ w, Accepts (pre ++ encodeWord w) (q w)) : Accepts pre (bind word q) := by
  intro bs rest i h
  obtain ⟨w, mid, hw, hmid⟩ := bind_eq_ok.mp h
  obtain rfl := word_eq_ok.mp hw
  simpa using hq w mid rest i hmid

theorem accepts_idx {pre : List Byte} {c : IdxClass} {q : Idx → Parser Instr}
    (hq : ∀ x, x.inClass c = true → Accepts (pre ++ x.encode) (q x)) :
    Accepts pre (bind (idx c) q) := by
  intro bs rest i h
  obtain ⟨x, mid, hx, hmid⟩ := bind_eq_ok.mp h
  obtain ⟨rfl, hclass⟩ := idx_eq_ok.mp hx
  simpa using hq x hclass mid rest i hmid

/-! ### The transfer and loop postbytes (R90, R91) -/

theorem code_of_regOfCode {code : BitVec 3} {r : Reg} (h : regOfCode code = some r) :
    r.code = code := by
  revert code
  rcases r with (_ | _ | _) | (_ | _ | _ | _) <;> decide

theorem code_of_counterOfCode {code : BitVec 3} {c : Counter} (h : counterOfCode code = some c) :
    c.code = code := by
  revert code
  cases c <;> decide

/-- A transfer postbyte with bit 3 clear, in its fields (R90). -/
theorem transfer_postbyte (eb : Byte) (h : eb.getLsbD 3 = false) :
    BitVec.ofBool (eb.getLsbD 7) ++ eb.extractLsb' 4 3 ++ 0#1 ++ eb.extractLsb' 0 3 = eb := by
  revert eb; decide

/-- A loop postbyte with bit 3 clear, in its fields (R91). -/
theorem loop_postbyte (lb : Byte) (h : lb.getLsbD 3 = false) :
    lb.extractLsb' 5 3 ++ lb.extractLsb' 4 1 ++ 0#1 ++ lb.extractLsb' 0 3 = lb := by
  revert lb; decide

theorem off9_fields (b : BitVec 1) (rr : Byte) :
    (b ++ rr).extractLsb' 8 1 = b ∧ (b ++ rr).extractLsb' 0 8 = rr := by
  revert b rr; decide

/-- The loop primitive of an operation code has that code in its encoding (R91). -/
theorem encode_of_loopOfCode {k : BitVec 3} {f : Counter → BitVec 9 → Instr}
    (h : loopOfCode k = some f) (c : Counter) (rel : BitVec 9) :
    (f c rel).WellFormed ∧ encode (f c rel) = encodeLoop k c rel := by
  have hk : k = 0 ∨ k = 1 ∨ k = 2 ∨ k = 3 ∨ k = 4 ∨ k = 5 ∨ k = 6 ∨ k = 7 := by
    clear h; revert k; decide
  rcases hk with rfl | rfl | rfl | rfl | rfl | rfl | rfl | rfl <;> cases h <;> exact ⟨rfl, rfl⟩

theorem accepts_transferRow : Accepts [0xB7] transferRow := by
  refine accepts_byte fun eb => ?_
  split
  · next r R h3 hr hR =>
    have heb := transfer_postbyte eb h3
    rw [← code_of_regOfCode hr, ← code_of_regOfCode hR] at heb
    split
    · next h7 =>
      rw [h7] at heb
      exact accepts_done rfl (congrArg (fun b => [0xB7, b]) heb)
    · next h7 =>
      rw [Bool.eq_true_of_not_eq_false h7] at heb
      split
      · next hwidth => exact accepts_done hwidth (congrArg (fun b => [0xB7, b]) heb)
      · exact accepts_reject _ _
  · exact accepts_reject _ _

theorem accepts_loopRow : Accepts [0x04] loopRow := by
  refine accepts_byte fun lb => ?_
  split
  · next f c h3 hf hc =>
    refine accepts_byte fun rr => ?_
    obtain ⟨hwf, henc⟩ := encode_of_loopOfCode hf c (lb.extractLsb' 4 1 ++ rr)
    obtain ⟨hhi, hlo⟩ := off9_fields (lb.extractLsb' 4 1) rr
    refine accepts_done hwf ?_
    rw [henc, encodeLoop, hhi, hlo, code_of_counterOfCode hc, loop_postbyte lb h3]
    rfl
  · exact accepts_reject _ _

/-! ### The opcode maps (R94, R95) -/

/-- Each parser of a list accepts encodings behind `page` and its own opcode; the first one's opcode
is `n`. -/
def RowAccepts (page : List Byte) : Nat → List (Parser Instr) → Prop
  | _, [] => True
  | n, p :: ps => Accepts (page ++ [BitVec.ofNat 8 n]) p ∧ RowAccepts page (n + 1) ps

/-- The same for the rows of an opcode map, sixteen opcodes each. -/
def MapAccepts (page : List Byte) : Nat → List (List (Parser Instr)) → Prop
  | _, [] => True
  | n, row :: rows => RowAccepts page n row ∧ MapAccepts page (n + 16) rows

theorem RowAccepts.getElem? {page : List Byte} {n j : Nat} {row : List (Parser Instr)}
    {p : Parser Instr} (h : RowAccepts page n row) (hp : row[j]? = some p) :
    Accepts (page ++ [BitVec.ofNat 8 (n + j)]) p := by
  induction row generalizing n j with
  | nil => simp at hp
  | cons q row ih =>
    obtain ⟨hq, hrow⟩ := h
    cases j with
    | zero =>
      cases hp
      exact hq
    | succ j =>
      rw [Nat.add_comm j, ← Nat.add_assoc]
      exact ih hrow hp

theorem MapAccepts.getElem? {page : List Byte} {n k : Nat} {rows : List (List (Parser Instr))}
    {row : List (Parser Instr)} (h : MapAccepts page n rows) (hrow : rows[k]? = some row) :
    RowAccepts page (n + 16 * k) row := by
  induction rows generalizing n k with
  | nil => simp at hrow
  | cons r rows ih =>
    obtain ⟨hr, hrows⟩ := h
    cases k with
    | zero =>
      cases hrow
      exact hr
    | succ k =>
      rw [Nat.mul_succ, Nat.add_comm (16 * k), ← Nat.add_assoc]
      exact ih hrows hrow

/-- The parser of an opcode's place in a map accepts encodings with that opcode. -/
theorem MapAccepts.accepts {page : List Byte} {rows : List (List (Parser Instr))}
    (h : MapAccepts page 0 rows) {op : Byte} {row : List (Parser Instr)} {p : Parser Instr}
    (hrow : rows[op.toNat / 16]? = some row) (hp : row[op.toNat % 16]? = some p) :
    Accepts (page ++ [op]) p := by
  have hop := (h.getElem? hrow).getElem? hp
  rwa [Nat.zero_add, Nat.div_add_mod, BitVec.ofNat_toNat, BitVec.setWidth_eq] at hop

/-- Operand by operand, the bytes that a row of the map reads are those that its instruction's encoding
writes (R95); where the instruction restricts its sub-forms, the parser has tested the class (R89). -/
theorem page2Map_accepts : MapAccepts [0x18] 0 page2Map := by
  simp only [page2Map, MapAccepts, RowAccepts]
  repeat' refine And.intro ?_ ?_
  all_goals repeat' first
    | exact trivial
    | exact accepts_done rfl rfl
    | exact accepts_done ‹_› rfl
    | exact accepts_done (Bool.and_eq_true_iff.mpr ⟨‹_›, ‹_›⟩) rfl
    | exact accepts_reject _ _
    | refine accepts_byte fun _ => ?_
    | refine accepts_word fun _ => ?_
    | refine accepts_idx fun _ _ => ?_

theorem accepts_page2 (op : Byte) : Accepts [0x18, op] (page2 op) := by
  unfold page2
  split
  · next row hrow =>
    split
    · next p hp => exact page2Map_accepts.accepts hrow hp
    · exact accepts_reject _ _
  · split
    · split <;> exact accepts_reject _ _
    · exact accepts_reject _ _

/-- The bit branches with an indexed operand, whose encoding ends in mask and offset (R74,
format BB-IDX). -/
theorem accepts_bitBranchIdx {op : Byte} {f : Mem → Byte → Byte → Instr}
    (hwf : ∀ x mm rr, x.inClass .noind = true → (f (.idx x) mm rr).WellFormed)
    (he : ∀ x mm rr, encode (f (.idx x) mm rr) = op :: x.encode ++ [mm, rr]) :
    Accepts [op] (bitBranchIdx f) :=
  accepts_idx fun x hx => accepts_byte fun mm => accepts_byte fun rr =>
    accepts_done (hwf x mm rr hx) (by simp [he])

/-- The same for page 1 (R94). -/
theorem page1Map_accepts : MapAccepts [] 0 page1Map := by
  simp only [page1Map, MapAccepts, RowAccepts]
  repeat' refine And.intro ?_ ?_
  all_goals repeat' first
    | exact trivial
    | exact accepts_done rfl rfl
    | exact accepts_done ‹_› rfl
    | exact accepts_reject _ _
    | exact accepts_transferRow
    | exact accepts_loopRow
    | exact accepts_bitBranchIdx (fun _ _ _ h => h) fun _ _ _ => rfl
    | exact accepts_byte accepts_page2
    | refine accepts_byte fun _ => ?_
    | refine accepts_word fun _ => ?_
    | refine accepts_idx fun _ _ => ?_

theorem accepts_page1 (op : Byte) : Accepts [op] (page1 op) := by
  unfold page1
  split
  · next row hrow =>
    split
    · next p hp => exact page1Map_accepts.accepts hrow hp
    · exact accepts_reject _ _
  · exact accepts_reject _ _

/-- What is read is the encoding of a well-formed instruction, under its general name (R97). -/
theorem decodeGeneral_eq_ok {bs rest : List Byte} {i : Instr}
    (h : decodeGeneral bs = .ok (i, rest)) : i.WellFormed ∧ bs = encode i ++ rest :=
  accepts_byte (pre := []) accepts_page1 bs rest i h

/-- The decoder accepts the encoding of a well-formed instruction alone, and answers a name of it
(R96, R97). -/
theorem decode_eq_ok {bs rest : List Byte} {i : Instr} (h : decode bs = .ok (i, rest)) :
    ∃ j : Instr, j.WellFormed ∧ i = j.named ∧ bs = encode j ++ rest := by
  obtain ⟨j, mid, hj, hi⟩ := bind_eq_ok.mp h
  obtain ⟨rfl, rfl⟩ := done_eq_ok.mp hi
  obtain ⟨hwf, hbs⟩ := decodeGeneral_eq_ok hj
  exact ⟨j, hwf, rfl, hbs⟩

end Row

namespace Machine

/-! ### The step -/

/-- The bytes of the instruction fetched stand at the program counter as program text (R65). -/
theorem placed_of_fetchInstr {s : State} {i : Instr} (h : fetchInstr s = .next i) :
    ∃ j : Instr, j.WellFormed ∧ i = j.named ∧ Placed (encode j) s.pc s := by
  obtain ⟨rest, hdecode⟩ := fetchInstr_eq_next.mp h
  obtain ⟨j, hwf, rfl, hfetch⟩ := Row.decode_eq_ok hdecode
  obtain hnil | ⟨_, hplaced⟩ := fetchBytes_eq_append.mp ⟨rest, hfetch⟩
  · exact ⟨j, hwf, rfl, by rw [hnil]; trivial⟩
  · exact ⟨j, hwf, rfl, hplaced⟩

/-- Settles O7: forward by reading the encoding back, backward because nothing but an encoding is
read; the name that the decoder reports does not matter either way. -/
theorem stepRunsEveryEncodedInstruction : Obligations.StepRunsEveryEncodedInstruction := by
  constructor
  · intro i s hwf hplaced hend
    have hdecode : decode (encode i) = .ok (i.canonical, []) := by
      simpa using Row.decode_encode i hwf []
    calc step s
        = andThen (fetchInstr s) (exec · s) := if_neg hend
      _ = exec i.canonical s := by rw [fetchInstr_of_placed hdecode hplaced, andThen_next]
      _ = exec i s := exec_canonical i s
  · intro s t ht
    obtain ⟨_, i, hfetch, hexec⟩ := step_eq_next.mp ht
    obtain ⟨j, hwf, rfl, hplaced⟩ := placed_of_fetchInstr hfetch
    exact ⟨j, hwf, hplaced, (exec_named j s).symm.trans hexec⟩

end Machine

end Sys2Proof
end

section
/-! PROOFS. The encoding of instructions (spec R73 to R97): the decoder reads every encoding back
and accepts nothing else, the names of one encoding have one meaning, and the postbytes reserved by
R90 and R91 are refused by name.

The names that R96 gives to one encoding are compared through `Instr.general`: the general
instruction has the bytes and the forms of each of its names, and `general_named` says that the name
the decoder reports is one of them. -/

namespace Sys2Proof

/-! ### The names of one encoding (R96) -/

/-- The name that the decoder reports is a name of the same general instruction (R96). -/
@[simp] theorem Instr.general_named (i : Instr) : i.named.general = i.general := by
  cases i with
  | tfr r R =>
    cases r with
    | r8 r => cases R with | r8 R => cases r <;> cases R <;> rfl | r16 R => cases r <;> rfl
    | r16 r => cases R with | r8 R => cases r <;> rfl | r16 R => cases r <;> cases R <;> rfl
  | exg r R =>
    cases r with
    | r8 r => rfl
    | r16 r => cases R with | r8 R => cases r <;> rfl | r16 R => cases r <;> cases R <;> rfl
  | leax x | leay x =>
    dsimp only [Instr.named]
    split
    · next hx => subst hx; rfl
    · rfl
  | leas x =>
    dsimp only [Instr.named]
    split_ifs with hdes hins
    · subst hdes; rfl
    · subst hins; rfl
    · rfl
  | andcc ii =>
    dsimp only [Instr.named]
    split_ifs with hclc hcli hclv
    · subst hclc; rfl
    · subst hcli; rfl
    · subst hclv; rfl
    · rfl
  | _ => rfl

/-- A general instruction is its own general name. -/
@[simp] theorem Instr.general_general (i : Instr) : i.general.general = i.general := by
  cases i <;> rfl

/-- The general instruction has the bytes of each of its names (R96). -/
@[simp] theorem encode_general (i : Instr) : encode i.general = encode i := by
  cases i <;> rfl

/-- No name of an instruction takes a form that the general one refuses, nor the other way round. -/
@[simp] theorem Instr.formsOk_general (i : Instr) : i.general.formsOk = i.formsOk := by
  cases i <;> rfl

/-- Reporting a name does not change what its bytes are reported as (R96). -/
@[simp] theorem Instr.canonical_canonical (i : Instr) : i.canonical.canonical = i.canonical := by
  rw [canonical, canonical, general_named, general_general]

/-- The reported name has the bytes of the instruction (R96). -/
@[simp] theorem encode_canonical (i : Instr) : encode i.canonical = encode i :=
  calc encode i.canonical
      = encode i.general.named.general := (encode_general _).symm
    _ = encode i := by simp

/-- The reported name is well-formed where the instruction is. -/
@[simp] theorem Instr.wellFormed_canonical (i : Instr) :
    i.canonical.WellFormed ↔ i.WellFormed := by
  have hforms : i.canonical.formsOk = i.formsOk :=
    calc i.canonical.formsOk
        = i.general.named.general.formsOk := (formsOk_general _).symm
      _ = i.formsOk := by simp
  exact Bool.eq_iff_iff.mp hforms

namespace Row

/-! ### The decoder and the encoder -/

/-- Settles O1, by the lemma that reads an encoding back under its general name. -/
theorem decodeReadsBackEveryEncoding : Obligations.DecodeReadsBackEveryEncoding :=
  fun i rest hwf => decode_encode i hwf rest

/-- Settles O2: what is accepted is the encoding of some instruction, so reading it back gives the
canonical name of that instruction, which is a fixed point. -/
theorem decodeAcceptsEncodingsOnly : Obligations.DecodeAcceptsEncodingsOnly := by
  intro bs rest i hdecode
  obtain ⟨j, hwf, _, hbs⟩ := decode_eq_ok hdecode
  have hread : decode bs = .ok (j.canonical, rest) := hbs ▸ decode_encode j hwf rest
  obtain rfl : i = j.canonical := by
    rw [hdecode] at hread
    cases hread
    rfl
  exact ⟨j.wellFormed_canonical.mpr hwf, j.canonical_canonical, by rw [encode_canonical, hbs]⟩

/-- Settles O3, by evaluating the decoder on each word. -/
theorem decodeOfSpecExampleWords : Obligations.DecodeOfSpecExampleWords :=
  ⟨rfl, rfl, rfl, rfl, rfl, rfl, rfl⟩

/-! ### Reserved postbytes (R90, R91, R97) -/

/-- What ends the reading of the first part ends the reading of the whole. -/
theorem bind_of_error {α β : Type} {p : Parser α} {q : α → Parser β} {bs : List Byte}
    {e : DecodeError} (h : p bs = .error e) : bind p q bs = .error e := by
  simp [bind, h]

/-- A row that refuses the bytes behind its opcode (R73, R97). -/
theorem decode_cons_of_error {op : Byte} {p : Parser Instr} {bs : List Byte} {e : DecodeError}
    (hrow : page1 op = p) (h : p bs = .error e) : decode (op :: bs) = .error e :=
  bind_of_error ((decodeGeneral_cons hrow bs).trans h)

/-- No register has the code 011 (R90). -/
theorem regOfCode_eq_none {code : BitVec 3} : regOfCode code = none ↔ code = 3 := by
  revert code; decide

/-- No counter has the codes 010 and 011 (R91). -/
theorem counterOfCode_eq_none {ccc : BitVec 3} :
    counterOfCode ccc = none ↔ ccc = 2 ∨ ccc = 3 := by
  revert ccc; decide

/-- No loop primitive has the codes 110 and 111 (R91). -/
theorem loopOfCode_eq_none {kkk : BitVec 3} : loopOfCode kkk = none ↔ kkk = 6 ∨ kkk = 7 := by
  revert kkk; decide

/-- Bit 2 of a register's code tells its width (R90). -/
theorem sameWidth_eq_code_msb (r R : Reg) : r.sameWidth R = (r.code.msb == R.code.msb) := by
  have hwidth : ∀ q : Reg, q.code.msb = q.sameWidth (.r16 .d) := by
    rintro ((_ | _ | _) | (_ | _ | _ | _)) <;> rfl
  rw [hwidth, hwidth]
  cases r <;> cases R <;> rfl

/-- A transfer postbyte with bit 3 set or with a code of no register is refused (R90). -/
theorem transferRow_of_reserved {eb : Byte} (h : eb.getLsbD 3 = true ∨
      regOfCode (eb.extractLsb' 4 3) = none ∨ regOfCode (eb.extractLsb' 0 3) = none)
    (rest : List Byte) : transferRow (eb :: rest) = .error (.transferPostbyte eb) := by
  refine (bind_of_ok (byte_cons eb rest)).trans
    (congrFun (g := reject (.transferPostbyte eb)) ?_ rest)
  split
  · next h3 hr hR =>
    rw [h3, hr, hR] at h
    simp at h
  · rfl

/-- An exchange postbyte whose two registers have unequal widths is refused (R161). -/
theorem transferRow_of_unequal_widths {eb : Byte} {r R : Reg} (h7 : eb.getLsbD 7 = true)
    (h3 : eb.getLsbD 3 = false) (hr : regOfCode (eb.extractLsb' 4 3) = some r)
    (hR : regOfCode (eb.extractLsb' 0 3) = some R) (hwidth : r.sameWidth R = false)
    (rest : List Byte) : transferRow (eb :: rest) = .error (.exchangeWidths eb) := by
  rw [transferRow, bind_of_ok (byte_cons eb rest)]
  simp only [h3, hr, hR, h7, hwidth]
  rfl

/-- A loop postbyte with bit 3 set or with a code of no primitive or no counter is refused (R91). -/
theorem loopRow_of_reserved {lb : Byte} (h : lb.getLsbD 3 = true ∨
      loopOfCode (lb.extractLsb' 5 3) = none ∨ counterOfCode (lb.extractLsb' 0 3) = none)
    (rest : List Byte) : loopRow (lb :: rest) = .error (.loopPostbyte lb) := by
  refine (bind_of_ok (byte_cons lb rest)).trans (congrFun (g := reject (.loopPostbyte lb)) ?_ rest)
  split
  · next h3 hf hc =>
    rw [h3, hf, hc] at h
    simp at h
  · rfl

/-- The top bits of the two register codes of a transfer postbyte (R90). -/
theorem register_code_msb (eb : Byte) :
    (eb.extractLsb' 4 3).msb = eb.getLsbD 6 ∧ (eb.extractLsb' 0 3).msb = eb.getLsbD 2 := by
  revert eb; decide

/-- Settles O4: a reserved code is the code of no register, primitive or counter, and two registers
have unequal widths where the top bits of their codes differ. -/
theorem decodeRefusesReservedPostbytes : Obligations.DecodeRefusesReservedPostbytes := by
  refine ⟨fun eb rest h => ?_, fun eb rest h7 h3 hr hR hwidth => ?_, fun lb rest h => ?_⟩
  · refine decode_cons_of_error rfl (transferRow_of_reserved ?_ rest)
    rwa [regOfCode_eq_none, regOfCode_eq_none]
  · obtain ⟨r, hr⟩ := Option.ne_none_iff_exists'.mp (mt regOfCode_eq_none.mp hr)
    obtain ⟨R, hR⟩ := Option.ne_none_iff_exists'.mp (mt regOfCode_eq_none.mp hR)
    obtain ⟨hmsb, hMsb⟩ := register_code_msb eb
    have hunequal : r.sameWidth R = false := by
      rw [sameWidth_eq_code_msb, code_of_regOfCode hr, code_of_regOfCode hR, hmsb, hMsb]
      exact beq_false_of_ne hwidth
    exact decode_cons_of_error rfl (transferRow_of_unequal_widths h7 h3 hr hR hunequal rest)
  · refine decode_cons_of_error rfl (loopRow_of_reserved ?_ rest)
    rwa [loopOfCode_eq_none, counterOfCode_eq_none, or_assoc]

end Row

namespace Machine

/-- Settles O5: each of the names means what the general instruction means. -/
theorem namesOfOneEncodingMeanTheSame : Obligations.NamesOfOneEncodingMeanTheSame :=
  exec_canonical

/-! ### A step that runs no instruction -/

/-- The fetch refuses bytes that the decoder refuses for another reason than their number (R97). -/
theorem fetchInstr_of_error {s : State} {e : DecodeError}
    (h : decode (fetchBytes 6 s.pc s) = .error e) (he : e ≠ .truncated) :
    fetchInstr s = .refused (.encoding e) := by
  cases e with
  | truncated => exact absurd rfl he
  | _ => simp only [fetchInstr, h]

/-- Settles O8: the bytes fetched behind the refused ones do not change the decoder's reason. -/
theorem stepStopsAtEndAndAtRefusedBytes : Obligations.StepStopsAtEndAndAtRefusedBytes := by
  refine ⟨fun s hend => if_pos hend, fun bs e s hdecode he hlength hplaced hend => ?_⟩
  obtain ⟨rest, hfetch⟩ := fetchBytes_of_placed hplaced hlength
  have hrefused : fetchInstr s = .refused (.encoding e) :=
    fetchInstr_of_error (hfetch ▸ Row.stable_decode.error bs rest e hdecode he) he
  rw [step, if_neg hend, hrefused, andThen_refused]

end Machine

end Sys2Proof
end

section
/-! PROOFS. Automatic and indirect indexed operands (spec R81 to R87, R165), and the instructions
that do nothing but pass (R98). -/

namespace Sys2Proof.Machine

/-! ### Automatic increment and decrement (R83) -/

/-- The signed number that a base register changes by: +1 to +8, or -8 to -1 (R83). -/
def autoStep (nnnn : BitVec 4) : Int :=
  if nnnn.toNat < 8 then nnnn.toNat + 1 else nnnn.toNat - 16

theorem autoDelta_eq_ofInt (nnnn : BitVec 4) :
    autoDelta nnnn = BitVec.ofInt 16 (autoStep nnnn) := by
  revert nnnn; decide

/-- Adding the adjustment adds its signed value, modulo 2^16 (R52, R83). -/
theorem add_autoDelta (a : Word) (nnnn : BitVec 4) :
    a + autoDelta nnnn = BitVec.ofInt 16 (a.toNat + autoStep nnnn) := by
  rw [BitVec.ofInt_add, BitVec.ofInt_natCast, BitVec.ofNat_toNat, BitVec.setWidth_eq,
    autoDelta_eq_ofInt]

/-- The part of the state that an auto-modified base register is. -/
abbrev AutoBase.part : AutoBase → Part
  | .x => .x
  | .y => .y
  | .sp => .sp

theorem Frame.setAuto (s : State) (r : AutoBase) (v : Word) :
    Frame [AutoBase.part r] [] s (s.setAuto r v) := by
  refine .of_parts (fun p hp _ => ?_) (by simp) (by simp)
  cases r <;> cases p <;> first | rfl | exact absurd (List.mem_singleton_self _) hp

/-- Settles O18: the model's adjustment is the signed number of R83. -/
theorem autoFormsChangeTheBase : Obligations.AutoFormsChangeTheBase := by
  intro slot next r post nnnn s d new
  have hnew : s.autoValue r + autoDelta nnnn = new := add_autoDelta (s.autoValue r) nnnn
  refine ⟨s.setAuto r new, ?_, s.autoValue_setAuto r new, Frame.setAuto s r new,
    s.setAuto_pc r new⟩
  rw [idxAddress, hnew]

/-! ### Indirect forms (R85, R87) -/

/-- Settles O19: the word at the sum of base and offset is read, and nothing is written. -/
theorem indirectFormsReadTheAddress : Obligations.IndirectFormsReadTheAddress := by
  intro slot next base ea r s hreg
  have hbase : baseValue slot next r s = .next base := baseValue_of_register hreg
  refine ⟨fun hword => ?_, fun n hword => ?_⟩
  · rw [← add_d] at hword
    rw [idxAddress, hbase, andThen_next, readWord_eq_next.mpr hword, andThen_next]
  · rw [idxAddress, hbase, andThen_next, readWord_eq_next.mpr hword, andThen_next]

/-! ### One base register used twice (R83, R165) -/

/-- The data register of LDr, STr, LEAr and CPr, and the base register that the operand changes, if
it changes one (R83). -/
def Instr.dataAndAutoBase : Instr → Option (AutoBase × Option AutoBase)
  | .lds o | .cps o => some (.sp, o.autoBase)
  | .ldx o | .cpx o => some (.x, o.autoBase)
  | .ldy o | .cpy o => some (.y, o.autoBase)
  | .sts m => some (.sp, m.autoBase)
  | .stx m => some (.x, m.autoBase)
  | .sty m => some (.y, m.autoBase)
  | .leas x => some (.sp, (Mem.idx x).autoBase)
  | .leax x => some (.x, (Mem.idx x).autoBase)
  | .leay x => some (.y, (Mem.idx x).autoBase)
  | _ => none

/-- An instruction whose data register is the base that its operand changes is refused (R83). -/
theorem exec_of_autoBase_clash {i : Instr} {r : AutoBase}
    (h : Instr.dataAndAutoBase i = some (r, some r)) (s : State) :
    exec i s = .refused .autoBaseIsData := by
  cases i with
  | lds _ | cps _ | ldx _ | cpx _ | ldy _ | cpy _ | sts _ | stx _ | sty _ | leas _ | leax _
  | leay _ =>
    obtain ⟨rfl, hbase⟩ := Prod.mk.inj (Option.some.inj h)
    exact if_pos hbase
  | _ => cases h

/-- A move whose two operands change one base register is refused (R165). -/
theorem move_of_shared_base {w : Nat} {read : Word → State → Res (BitVec w)}
    {write : Word → BitVec w → State → Res State} {m : Mov w} {r : AutoBase}
    (hsource : m.sourceAuto = some r) (hdest : m.destAuto = some r) (s : State) :
    move read write m s = .refused .moveSharesAutoBase :=
  if_pos (by simp [hsource, hdest])

/-- Settles O22: the data register of each of the twelve instructions is its operand's base, and the
two bases of each move are one. -/
theorem autoBaseClashesAreRefused : Obligations.AutoBaseClashesAreRefused := by
  refine fun post n k s => ⟨?_, fun r q =>
    ⟨move_of_shared_base (r := r) rfl rfl s, move_of_shared_base (r := r) rfl rfl s⟩⟩
  simp only [List.forall_mem_cons]
  refine ⟨?_, ?_, ?_, ?_, ?_, ?_, ?_, ?_, ?_, ?_, ?_, ?_, fun _ h => absurd h List.not_mem_nil⟩
  all_goals exact exec_of_autoBase_clash rfl s

/-! ### Instructions that only advance (R98) -/

/-- Writing its own value to CCR leaves it, X included (R37). -/
theorem State.writeCcr_self (s : State) : s.writeCcr s.ccr = s := by
  have hmask : ∀ v : Byte, (v &&& 0b10111111#8) ||| (v &&& v &&& 0b01000000#8) = v := by decide
  exact congrArg s.setCcr (hmask s.ccr)

@[simp] theorem State.write8_read8 (s : State) (r : Reg8) : s.write8 r (s.read8 r) = s := by
  cases r with
  | a | b => rfl
  | ccr => exact s.writeCcr_self

@[simp] theorem State.write16_read16 (s : State) (r : Reg16) : s.write16 r (s.read16 r) = s := by
  cases r with
  | d => simp [State.write16, State.read16, State.setD, State.d]
  | x | y | sp => rfl

theorem exec_tfr_self (r : Reg) (s : State) : exec (.tfr r r) s = Res.done 2 s := by
  cases r with
  | r8 r => exact congrArg (Res.done 2) (s.write8_read8 r)
  | r16 r => exact congrArg (Res.done 2) (s.write16_read16 r)

theorem exec_exg_self (r : Reg) (s : State) : exec (.exg r r) s = Res.done 2 s := by
  cases r with
  | r8 r =>
    calc exec (.exg (.r8 r) (.r8 r)) s
        = Res.done 2 ((s.write8 r (s.read8 r)).write8 r (s.read8 r)) := rfl
      _ = Res.done 2 s := by simp
  | r16 r =>
    calc exec (.exg (.r16 r) (.r16 r)) s
        = Res.done 2 ((s.write16 r (s.read16 r)).write16 r (s.read16 r)) := rfl
      _ = Res.done 2 s := by simp

/-- An instruction that does nothing but advance (R27). -/
theorem runs_advance {i : Instr} {len : Nat} {s : State} (hi : exec i s = Res.done len s) :
    Runs i s fun t => Frame [] [] s t ∧ Past len s t :=
  runs_done hi ⟨.advance s len, rfl⟩

/-- Settles O33: a branch never taken only advances, and a write of a register's own value changes
nothing. -/
theorem someInstructionsOnlyAdvance : Obligations.SomeInstructionsOnlyAdvance :=
  fun s _ _ r => ⟨runs_advance rfl, runs_advance rfl, runs_advance (exec_tfr_self r s),
    runs_advance (exec_exg_self r s)⟩

end Sys2Proof.Machine
end

section
/-! PROOFS. Loads, load effective address and stores (spec R120 to R137).

A load writes one register and then N, Z and V; a store writes memory and then the same flags.
`runs_loadByte`, `runs_loadWord`, `runs_loadAddress`, `runs_storeByteOf` and `runs_storeWordOf` say
once what each shape does, for any register. -/

namespace Sys2Proof.Machine

/-! ### Frames -/

/-- After writes of memory, writes of registers and flags store nothing more. -/
theorem Frame.transRegisters {w w' : List Part} {l : List Word} {s t u : State} (h : Frame w l s t)
    (k : Frame w' [] t u) : Frame (w ++ w') l s u where
  parts p hp hpc := by
    rw [List.mem_append, not_or] at hp
    have hst := h.parts p hp.1 hpc
    have htu := k.parts p hp.2 hpc
    cases p <;> exact htu.trans hst
  mem a ha := (k.mem a List.not_mem_nil).trans (h.mem a ha)
  launch := k.launch.trans h.launch

/-- Writing memory at the listed addresses. -/
theorem Frame.setMem {l : List Word} {s : State} {m : List Host.Cell}
    (h : SameMemOutside l s (s.setMem m)) : Frame [] l s (s.setMem m) :=
  ⟨fun p _ _ => by cases p <;> rfl, h, rfl⟩

/-- A 16-bit register named by an operand (R22). -/
theorem Frame.write16 (s : State) (r : Reg16) (v : Word) :
    Frame (Reg16.parts r) [] s (s.write16 r v) := by
  cases r with
  | d => exact Frame.setD s v
  | x => exact Frame.setAuto s .x v
  | y => exact Frame.setAuto s .y v
  | sp => exact Frame.setAuto s .sp v

/-- The parts that hold N, Z and V. -/
abbrev nzvParts : List Part := [.flagN, .flagZ, .flagV]

/-- Writing N and Z from a value and clearing V, then advancing (R38). -/
theorem Frame.nzvAndAdvance {w : List Part} {l : List Word} {s t : State} (h : Frame w l s t) {n : Nat}
    (v : BitVec n) (len : Nat) : Frame (w ++ nzvParts) l s ((t.setFlags (nzv0 v)).advance len) :=
  h.transRegisters ((Frame.refl t).flagsAndAdvance (nzv0 v) len)

/-! ### Flags -/

theorem nz_nzv0 {n : Nat} (v : BitVec n) (s : State) (len : Nat) :
    NZ v ((s.setFlags (nzv0 v)).advance len) := nz_of (by simp [nzv0]) (by simp [nzv0])

theorem flagV_nzv0 {n : Nat} (v : BitVec n) (s : State) (len : Nat) :
    ((s.setFlags (nzv0 v)).advance len).flagV = false := by simp [nzv0]

/-! ### Loads -/

/-- A load of an accumulator (R121, R122). -/
theorem runs_loadByte {i : Instr} {r : Reg8} (hr : r ≠ .ccr) {o : Opr 8} {m : Byte} {s s1 : State}
    (h : operand8 (s.nextPc (1 + o.length)) o s = .next (m, s1))
    (hi : exec i s = withOperand8 o s fun m s1 => (s1.write8 r m).setFlags (nzv0 m)) :
    Runs i s fun t => t.read8 r = m ∧ NZ m t ∧ t.flagV = false ∧ Past (1 + o.length) s t ∧
      Frame (Reg8.parts r ++ nzvParts) [] (Opr.after o s) t :=
  runs_withOperand8 h hi ⟨State.read8_of_write8 _ hr _ _ _, nz_nzv0 _ _ _, flagV_nzv0 _ _ _,
    by simp [Past], (Frame.write8 _ hr m).nzvAndAdvance m _⟩

/-- A 16-bit register keeps what was written to it when the flags are written and the counter moves. -/
theorem State.read16_of_write16 (s : State) (r : Reg16) (v : Word) (u : FlagUpdate) (len : Nat) :
    (((s.write16 r v).setFlags u).advance len).read16 r = v := by
  cases r with
  | d => exact mkWord_hiByte_loByte v
  | x | y | sp => rfl

/-- A load of a 16-bit register (R123 to R126). -/
theorem runs_loadWord {i : Instr} {r : Reg16} {o : Opr 16} {m : Word} {s s1 : State}
    (h : operand16 (s.nextPc (1 + o.length)) o s = .next (m, s1))
    (hi : exec i s = withOperand16 o s fun m s1 => (s1.write16 r m).setFlags (nzv0 m)) :
    Runs i s fun t => t.read16 r = m ∧ NZ m t ∧ t.flagV = false ∧ Past (1 + o.length) s t ∧
      Frame (Reg16.parts r ++ nzvParts) [] (Opr.after o s) t :=
  runs_withOperand16 h hi ⟨State.read16_of_write16 _ r _ _ _, nz_nzv0 _ _ _, flagV_nzv0 _ _ _,
    by simp [Past], (Frame.write16 _ r m).nzvAndAdvance m _⟩

/-- LDD: A and B are the bytes of D (R22, R123). -/
theorem ldd_loads {o : Opr 16} {m : Word} {s s1 : State}
    (h : operand16 (s.nextPc (1 + o.length)) o s = .next (m, s1)) :
    Runs (.ldd o) s fun t => t.a = hiByte m ∧ t.b = loByte m ∧ NZ m t ∧ t.flagV = false ∧
      Past (1 + o.length) s t ∧ Frame [.a, .b, .flagN, .flagZ, .flagV] [] (Opr.after o s) t := by
  refine (runs_loadWord (r := .d) h rfl).imp fun t ⟨hd, hrest⟩ => ?_
  have hword : mkWord t.a t.b = m := hd
  exact ⟨(hiByte_mkWord _ _).symm.trans (congrArg hiByte hword),
    (loByte_mkWord _ _).symm.trans (congrArg loByte hword), hrest⟩

/-- Settles O23: each load is `runs_loadByte` or `runs_loadWord` at its register. -/
theorem loadsTakeTheOperandAndSetNZ : Obligations.LoadsTakeTheOperandAndSetNZ := by
  refine ⟨fun o m s s1 h => ⟨?_, ?_⟩,
    fun o m s s1 h => ⟨ldd_loads h, fun hbase => ?_, fun hbase => ?_, fun hbase => ?_⟩⟩
  · exact runs_loadByte (r := .a) (by decide) h rfl
  · exact runs_loadByte (r := .b) (by decide) h rfl
  · exact runs_loadWord (r := .sp) h (unlessAutoBase_of_ne hbase)
  · exact runs_loadWord (r := .x) h (unlessAutoBase_of_ne hbase)
  · exact runs_loadWord (r := .y) h (unlessAutoBase_of_ne hbase)

/-! ### Load effective address -/

/-- LEAr where the operand changes another register or none (R127): the address is computed, the base
changes, and then the register takes the address. -/
theorem runs_loadAddress {i : Instr} {r : AutoBase} {x : Idx} {ea : Word} {s s1 : State}
    (hclass : x.inClass .noind = true)
    (h : idxAddress .sole (s.nextPc (1 + x.length)) x s = .next (ea, s1))
    (hi : exec i s = loadAddress (State.setAuto r) x s) :
    Runs i s fun t => t.autoValue r = ea ∧ Past (1 + x.length) s t ∧
      Frame [AutoBase.part r] [] (Idx.after x s) t := by
  obtain rfl := idxAddress_state h
  have haddress := classAddress_eq_next.mpr ⟨hclass, h⟩
  refine ⟨_, hi.trans (loadAddress_eq_next.mpr ⟨ea, _, haddress, rfl⟩), ?_, by simp [Past],
    (Frame.setAuto _ r ea).trans (.advance _ _)⟩
  cases r <;> rfl

/-- Settles O24: `runs_loadAddress` at each register, and the clash of R83. -/
theorem loadEffectiveAddressTakesTheAddress : Obligations.LoadEffectiveAddressTakesTheAddress := by
  refine fun x ea s s1 hclass h => ⟨fun hbase => ?_, fun hbase => ?_, fun hbase => ?_,
    fun hbase => ?_, fun hbase => ?_, fun hbase => ?_⟩
  · exact runs_loadAddress (r := .sp) hclass h (unlessAutoBase_of_ne hbase)
  · exact runs_loadAddress (r := .x) hclass h (unlessAutoBase_of_ne hbase)
  · exact runs_loadAddress (r := .y) hclass h (unlessAutoBase_of_ne hbase)
  all_goals exact exec_of_autoBase_clash (by rw [Instr.dataAndAutoBase, hbase]) s

/-! ### Stores -/

/-- A store of a byte (R132, R133). -/
theorem runs_storeByteOf {i : Instr} {m : Mem} {v : Byte} {ea : Word} {s s1 : State}
    (h : memAddress .all (s.nextPc (1 + m.length)) m s = .next (ea, s1)) (hc : CanStore s ea)
    (hi : exec i s = storeByte m v s) :
    Runs i s fun t => HasByte t ea v ∧ NZ v t ∧ t.flagV = false ∧ Past (1 + m.length) s t ∧
      Frame nzvParts [ea] (Mem.after m s) t :=
  runs_storeByte h hc hi ⟨hasByte_of_memSet hc (by simp) (by simp), nz_nzv0 _ _ _,
    flagV_nzv0 _ _ _, by simp [Past],
    (Frame.setMem (sameMem_of_memSet (v := v) rfl (by simp))).nzvAndAdvance v _⟩

/-- A store of a word (R134 to R137). -/
theorem runs_storeWordOf {i : Instr} {m : Mem} {v ea : Word} {s s1 : State}
    (h : memAddress .all (s.nextPc (1 + m.length)) m s = .next (ea, s1)) (hc : CanStoreWord s ea)
    (hi : exec i s = storeWord m v s) :
    Runs i s fun t => HasWord t ea v ∧ NZ v t ∧ t.flagV = false ∧ Past (1 + m.length) s t ∧
      Frame nzvParts [ea, ea + 1] (Mem.after m s) t :=
  runs_storeWord h hc hi ⟨hasWord_of_memSet hc (by simp) (by simp), nz_nzv0 _ _ _,
    flagV_nzv0 _ _ _, by simp [Past],
    (Frame.setMem (sameMem_of_memSet2 (v := hiByte v) (w := loByte v) rfl (by simp))).nzvAndAdvance
      v _⟩

/-- STD: A stands at the address and B after it (R22, R134). -/
theorem std_stores {m : Mem} {ea : Word} {s s1 : State}
    (h : memAddress .all (s.nextPc (1 + m.length)) m s = .next (ea, s1)) (hc : CanStoreWord s ea) :
    Runs (.std m) s fun t => HasByte t ea s.a ∧ HasByte t (ea + 1) s.b ∧ NZ (mkWord s.a s.b) t ∧
      t.flagV = false ∧ Past (1 + m.length) s t ∧
      Frame [.flagN, .flagZ, .flagV] [ea, ea + 1] (Mem.after m s) t := by
  refine (runs_storeWordOf (v := mkWord s.a s.b) h hc rfl).imp fun t ⟨⟨hhi, hlo⟩, hrest⟩ => ?_
  rw [hiByte_mkWord] at hhi
  rw [loByte_mkWord] at hlo
  exact ⟨hhi, hlo, hrest⟩

/-- Settles O25: each store is `runs_storeByteOf` or `runs_storeWordOf` at its register's value. -/
theorem storesPutTheRegisterInMemory : Obligations.StoresPutTheRegisterInMemory := by
  refine fun m ea s s1 h => ⟨fun hc => ⟨?_, ?_⟩,
    fun hc => ⟨std_stores h hc, fun hbase => ?_, fun hbase => ?_, fun hbase => ?_⟩⟩
  · exact runs_storeByteOf h hc rfl
  · exact runs_storeByteOf h hc rfl
  · exact runs_storeWordOf h hc (unlessAutoBase_of_ne hbase)
  · exact runs_storeWordOf h hc (unlessAutoBase_of_ne hbase)
  · exact runs_storeWordOf h hc (unlessAutoBase_of_ne hbase)

end Sys2Proof.Machine
end

section
/-! PROOFS. Transfers, exchanges, moves and the stack (spec R151 to R180).

A transfer writes one register and an exchange two; a push writes SP and then memory,
a pull SP and then a register. One lemma for each of these shapes serves every register. -/

namespace Sys2Proof.Machine

/-! ### Registers -/

@[simp] theorem State.read8_advance (s : State) (r : Reg8) (len : Nat) :
    (s.advance len).read8 r = s.read8 r := by
  cases r <;> rfl

@[simp] theorem State.read16_advance (s : State) (r : Reg16) (len : Nat) :
    (s.advance len).read16 r = s.read16 r := by
  cases r <;> rfl

/-- No two 8-bit registers overlap (R20, R21, R28). -/
theorem State.read8_write8_of_ne {r R : Reg8} (h : r ≠ R) (s : State) (v : Byte) :
    (s.write8 R v).read8 r = s.read8 r := by
  cases R <;> cases r <;> first | rfl | exact absurd rfl h

/-- No two 16-bit registers overlap (R22 to R25). -/
theorem State.read16_write16_of_ne {r R : Reg16} (h : r ≠ R) (s : State) (v : Word) :
    (s.write16 R v).read16 r = s.read16 r := by
  cases R <;> cases r <;> first | rfl | exact absurd rfl h

/-- The second write of an exchange leaves what the first wrote (R160). -/
theorem State.read8_exchange {r : Reg8} (hr : r ≠ .ccr) (R : Reg8) (s : State) :
    ((s.write8 r (s.read8 R)).write8 R (s.read8 r)).read8 r = s.read8 R := by
  by_cases h : r = R
  · subst h
    exact State.read8_write8 _ r _ hr
  · rw [State.read8_write8_of_ne h, State.read8_write8 _ r _ hr]

theorem State.read16_exchange (r R : Reg16) (s : State) :
    ((s.write16 r (s.read16 R)).write16 R (s.read16 r)).read16 r = s.read16 R := by
  by_cases h : r = R
  · subst h
    exact State.read16_write16 _ r _
  · rw [State.read16_write16_of_ne h, State.read16_write16]

/-- A and B are the bytes of D (R22). -/
theorem State.bytes_of_d {s : State} {w : Word} (h : s.d = w) :
    s.a = hiByte w ∧ s.b = loByte w := by
  subst h
  exact ⟨(hiByte_mkWord s.a s.b).symm, (loByte_mkWord s.a s.b).symm⟩

theorem sext16_toInt (v : Byte) : (sext16 v).toInt = v.toInt :=
  BitVec.toInt_signExtend_of_le (by decide)

/-- The closing advance of an instruction (R27). -/
theorem Frame.thenAdvance {w : List Part} {l : List Word} {s t : State} (h : Frame w l s t)
    (len : Nat) : Frame w l s (t.advance len) := by
  simpa using h.transRegisters (.advance t len)

/-! ### Transfers and exchanges -/

/-- An instruction that does nothing but write an accumulator and advance (R154, R155). -/
theorem runs_write8 {i : Instr} {len : Nat} {r : Reg8} {v : Byte} {s : State} (hr : r ≠ .ccr)
    (hi : exec i s = Res.done len (s.write8 r v)) :
    Runs i s fun t => t.read8 r = v ∧ Past len s t ∧ Frame (Reg8.parts r) [] s t :=
  runs_done hi ⟨by simp [State.read8_write8 _ _ _ hr], by simp [Past],
    (Frame.write8 s hr v).thenAdvance len⟩

/-- An instruction that does nothing but write a 16-bit register and advance (R154 to R159, R164). -/
theorem runs_write16 {i : Instr} {len : Nat} {r : Reg16} {v : Word} {s : State}
    (hi : exec i s = Res.done len (s.write16 r v)) :
    Runs i s fun t => t.read16 r = v ∧ Past len s t ∧ Frame (Reg16.parts r) [] s t :=
  runs_done hi ⟨by simp, by simp [Past], (Frame.write16 s r v).thenAdvance len⟩

/-- A transfer that sets N and Z and clears V (R151, R153). -/
theorem runs_write8_nzv {i : Instr} {len : Nat} {r : Reg8} {v : Byte} {s : State} (hr : r ≠ .ccr)
    (hi : exec i s = Res.done len ((s.write8 r v).setFlags (nzv0 v))) :
    Runs i s fun t => t.read8 r = v ∧ NZ v t ∧ t.flagV = false ∧ Past len s t ∧
      Frame (Reg8.parts r ++ nzvParts) [] s t :=
  runs_done hi ⟨State.read8_of_write8 _ hr _ _ _, nz_nzv0 _ _ _, flagV_nzv0 _ _ _, by simp [Past],
    (Frame.write8 s hr v).nzvAndAdvance v len⟩

/-- EXG of two accumulators (R160). -/
theorem exg8_swaps {r R : Reg8} (hr : r ≠ .ccr) (hR : R ≠ .ccr) (s : State) :
    Runs (.exg (.r8 r) (.r8 R)) s fun t => t.read8 R = s.read8 r ∧ t.read8 r = s.read8 R ∧
      Past 2 s t ∧ Frame (Reg8.parts r ++ Reg8.parts R) [] s t :=
  runs_done (len := 2) (s1 := (s.write8 r (s.read8 R)).write8 R (s.read8 r)) rfl
    ⟨by simp [State.read8_write8 _ _ _ hR], by simp [State.read8_exchange hr], by simp [Past],
      ((Frame.write8 s hr _).trans (.write8 _ hR _)).thenAdvance 2⟩

/-- An exchange of two 16-bit registers, by EXG or under a name of its own (R160, R162, R163). -/
theorem runs_exchange16 {i : Instr} {r R : Reg16} {s : State}
    (hi : exec i s = Res.done 2 ((s.write16 r (s.read16 R)).write16 R (s.read16 r))) :
    Runs i s fun t => t.read16 R = s.read16 r ∧ t.read16 r = s.read16 R ∧
      Past 2 s t ∧ Frame (Reg16.parts r ++ Reg16.parts R) [] s t :=
  runs_done hi ⟨by simp, by simp [State.read16_exchange], by simp [Past],
    ((Frame.write16 s r _).trans (.write16 _ R _)).thenAdvance 2⟩

/-- XGDX and XGDY exchange D with a 16-bit register, whose bytes A and B take (R22, R162, R163). -/
theorem runs_exchangeD {i : Instr} {R : Reg16} {s : State}
    (hi : exec i s = Res.done 2 ((s.setD (s.read16 R)).write16 R s.d)) :
    Runs i s fun t => t.read16 R = mkWord s.a s.b ∧ t.a = hiByte (s.read16 R) ∧
      t.b = loByte (s.read16 R) ∧ Past 2 s t ∧ Frame (.a :: .b :: Reg16.parts R) [] s t := by
  refine (runs_exchange16 (r := .d) hi).imp fun t ⟨hreg, hd, hrest⟩ => ?_
  obtain ⟨ha, hb⟩ := State.bytes_of_d hd
  exact ⟨hreg, ha, hb, hrest⟩

/-- Settles O27: a transfer is one write, an exchange two, at the width of each register. -/
theorem transfersConvertBetweenWidths : Obligations.TransfersConvertBetweenWidths := by
  refine ⟨fun r R s hR => ⟨runs_write8 hR rfl, fun hr => exg8_swaps hr hR s⟩,
    fun r R s => ⟨?_, ?_⟩, fun r R s hR => ?_,
    fun r R s => ⟨runs_write16 rfl, runs_exchange16 rfl⟩, fun r R s => ⟨rfl, rfl⟩⟩
  · exact (runs_write16 rfl).imp fun t ⟨hreg, hrest⟩ => ⟨hreg ▸ sext16_toInt _, hrest⟩
  · exact (runs_write16 rfl).imp fun t ⟨hreg, hrest⟩ => ⟨hreg ▸ sext16_toInt _, hrest⟩
  · exact (runs_write8 hR rfl).imp fun t ⟨hreg, hrest⟩ => ⟨hreg ▸ loByte_toNat _, hrest⟩

/-- Settles O26: each is a write of one register or an exchange with D. -/
theorem fixedTransfersCopyRegisters : Obligations.FixedTransfersCopyRegisters := by
  refine fun s => ⟨?_, ?_, ?_, ?_, ?_, ?_, ?_, ?_, ?_⟩
  · exact runs_write8_nzv (r := .b) (by decide) rfl
  · exact runs_write8_nzv (r := .a) (by decide) rfl
  · exact runs_write8 (r := .a) (by decide) rfl
  · exact runs_write16 (r := .x) rfl
  · exact runs_write16 (r := .y) rfl
  · exact runs_write16 (r := .sp) rfl
  · exact runs_write16 (r := .sp) rfl
  · exact runs_exchangeD (R := .x) rfl
  · exact runs_exchangeD (R := .y) rfl

/-! ### Moves -/

/-- A move whose store is admitted ends in the state that the store leaves, past its bytes (R165). -/
theorem runs_move {i : Instr} {w : Nat} {read : Word → State → Res (BitVec w)}
    {write : Word → BitVec w → State → Res State} {m : Mov w} {v : BitVec w} {b : Word}
    {l : List Word} {s s1 s2 s3 : State} (hi : exec i s = move read write m s)
    (hbase : ¬ (m.sourceAuto ≠ none ∧ m.sourceAuto = m.destAuto))
    (hsource : moveSource read (s.nextPc (2 + m.length)) m s = .next (v, s1))
    (hdest : moveAddress .moveDest (s.nextPc (2 + m.length)) m.dest s1 = .next (b, s2))
    (hwrite : write b v s2 = .next s3) (hpc : s3.pc = s2.pc) (hframe : Frame [] l s2 s3) :
    Runs i s fun t => t = s3.advance (2 + m.length) ∧ Past (2 + m.length) s t ∧
      Frame [] l (Mem.after m.dest.toMem (Mov.afterSource m s)) t := by
  have hexec := hi.trans (move_eq_next.mpr ⟨hbase, v, s1, b, s2, s3, hsource, hdest, hwrite, rfl⟩)
  have hpc1 : s1.pc = s.pc := (Steady.moveSource (w := False) hsource).pc
  have hpc2 : s2.pc = s1.pc := (Steady.moveAddress (w := False) hdest).pc
  obtain rfl := moveSource_state hsource
  obtain rfl := moveAddress_state hdest
  refine ⟨_, hexec, rfl, ?_, hframe.thenAdvance _⟩
  rw [Past, State.advance_pc, hpc, hpc2, hpc1]

/-- Reading a move's source and computing its destination's address change no launch parameter. -/
theorem launch_of_move_operands {w : Nat} {read : Word → State → Res (BitVec w)} {m : Mov w}
    {v : BitVec w} {next b : Word} {s s1 s2 : State}
    (hsource : moveSource read next m s = .next (v, s1))
    (hdest : moveAddress .moveDest next m.dest s1 = .next (b, s2)) : s2.launch = s.launch :=
  (Preserved.moveAddress hdest).launch.trans (Preserved.moveSource hsource).launch

/-- Settles O31, by `runs_move` with what a store of a byte or of a word leaves. -/
theorem movesCopyMemoryWithoutFlags : Obligations.MovesCopyMemoryWithoutFlags := by
  refine ⟨fun m v b s s1 s2 hbase hsource hdest hc => ?_,
    fun m v b s s1 s2 hbase hsource hdest hc => ?_⟩
  · have hstore : CanStore s2 b :=
      (canStore_congr (launch_of_move_operands hsource hdest)).mpr hc
    refine (runs_move rfl hbase hsource hdest (writeByte_eq_next.mpr ⟨hstore, rfl⟩) rfl
      (Frame.setMem (sameMem_of_memSet rfl rfl))).imp fun t ⟨ht, hrest⟩ => ⟨?_, hrest⟩
    subst ht
    exact hasByte_of_memSet hstore rfl rfl
  · have hstore : CanStoreWord s2 b :=
      (canStoreWord_congr (launch_of_move_operands hsource hdest)).mpr hc
    refine (runs_move rfl hbase hsource hdest (writeWord_eq_next.mpr ⟨hstore, rfl⟩) rfl
      (Frame.setMem (sameMem_of_memSet2 rfl rfl))).imp fun t ⟨ht, hrest⟩ => ⟨?_, hrest⟩
    subst ht
    exact hasWord_of_memSet hstore rfl rfl

/-! ### The stack -/

/-- The frame of a push (R168). SP and memory are separate parts of the state, so the proof may take
the write of memory first. -/
theorem Frame.push {l : List Word} {s : State} {m : List Host.Cell}
    (h : SameMemOutside l s (s.setMem m)) (sp : Word) (len : Nat) :
    Frame [.sp] l s (((s.setSp sp).setMem m).advance len) :=
  ((Frame.setMem h).transRegisters (.setSp _ sp)).thenAdvance len

/-- A push of a byte (R169 to R171). -/
theorem runs_pushByte {i : Instr} {v : Byte} {s : State} (hc : CanStore s (s.sp - 1))
    (hi : exec i s = andThen (pushByte v s) fun s1 => Res.done 1 s1) :
    Runs i s fun t => HasByte t t.sp v ∧ t.sp = s.sp - 1 ∧ Past 1 s t ∧
      Frame [.sp] [s.sp - 1] s t := by
  rw [pushByte_eq_next.mpr ⟨hc, rfl⟩] at hi
  exact runs_done hi ⟨hasByte_of_memSet hc rfl rfl, rfl, rfl,
    .push (sameMem_of_memSet rfl rfl) _ _⟩

/-- A push of a word; its less significant byte stands just below the old SP (R172 to R174). -/
theorem runs_pushWord {i : Instr} {w : Word} {s : State} (hc : CanStoreWord s (s.sp - 2))
    (hi : exec i s = andThen (pushWord w s) fun s1 => Res.done 1 s1) :
    Runs i s fun t => HasWord t t.sp w ∧ t.sp = s.sp - 2 ∧ Past 1 s t ∧
      Frame [.sp] [s.sp - 2, s.sp - 1] s t := by
  rw [pushWord_eq_next.mpr ⟨hc, rfl⟩] at hi
  have hlow : s.sp - 1 = s.sp - 2 + 1 := by bv_omega
  rw [hlow]
  exact runs_done hi ⟨hasWord_of_memSet hc rfl rfl, rfl, rfl,
    .push (sameMem_of_memSet2 rfl rfl) _ _⟩

/-- A pull of an accumulator (R175, R176). -/
theorem runs_pullByte {i : Instr} {r : Reg8} (hr : r ≠ .ccr) {v : Byte} {s : State}
    (hv : HasByte s s.sp v)
    (hi : exec i s = andThen (pullByte s) fun (v, s1) => Res.done 1 (s1.write8 r v)) :
    Runs i s fun t => t.read8 r = v ∧ t.sp = s.sp + 1 ∧ Past 1 s t ∧
      Frame (Reg8.parts r ++ [.sp]) [] s t := by
  rw [pullByte_eq_next.mpr ⟨hv, rfl⟩] at hi
  exact runs_done hi ⟨by simp [State.read8_write8 _ _ _ hr], by simp, by simp [Past],
    (((Frame.setSp s _).trans (.write8 _ hr v)).mono List.perm_append_comm.subset).thenAdvance 1⟩

/-- A pull of a 16-bit register other than SP (R178 to R180). -/
theorem runs_pullWord {i : Instr} {r : Reg16} (hr : r ≠ .sp) {w : Word} {s : State}
    (hw : HasWord s s.sp w)
    (hi : exec i s = andThen (pullWord s) fun (w, s1) => Res.done 1 (s1.write16 r w)) :
    Runs i s fun t => t.read16 r = w ∧ t.sp = s.sp + 2 ∧ Past 1 s t ∧
      Frame (Reg16.parts r ++ [.sp]) [] s t := by
  rw [pullWord_eq_next.mpr ⟨hw, rfl⟩] at hi
  have hsp : ((s.setSp (s.sp + 2)).write16 r w).sp = s.sp + 2 :=
    State.read16_write16_of_ne (r := .sp) hr.symm _ w
  exact runs_done hi ⟨by simp, hsp, by simp [Past],
    (((Frame.setSp s _).trans (.write16 _ r w)).mono List.perm_append_comm.subset).thenAdvance 1⟩

/-- PULD: A from the byte at SP, B from the byte after it (R22, R178). -/
theorem puld_pulls {w : Word} {s : State} (hw : HasWord s s.sp w) :
    Runs .puld s fun t => t.a = hiByte w ∧ t.b = loByte w ∧ t.sp = s.sp + 2 ∧ Past 1 s t ∧
      Frame [.a, .b, .sp] [] s t := by
  refine (runs_pullWord (r := .d) (by decide) hw rfl).imp fun t ⟨hd, hrest⟩ => ?_
  obtain ⟨ha, hb⟩ := State.bytes_of_d hd
  exact ⟨ha, hb, hrest⟩

/-- Settles O32: each push and pull is the lemma of its width at its register, PULC the write of CCR
that `pulc_writes` states. -/
theorem stackGrowsDownByTheRegisterSize : Obligations.StackGrowsDownByTheRegisterSize := by
  refine fun s => ⟨fun hc => ⟨runs_pushByte hc rfl, runs_pushByte hc rfl, runs_pushByte hc rfl⟩,
    fun hc => ⟨runs_pushWord hc rfl, runs_pushWord hc rfl, runs_pushWord hc rfl⟩,
    fun v hv => ⟨?_, ?_, pulc_writes hv⟩, fun w hw => ⟨puld_pulls hw, ?_, ?_⟩⟩
  · exact runs_pullByte (r := .a) (by decide) hv rfl
  · exact runs_pullByte (r := .b) (by decide) hv rfl
  · exact runs_pullWord (r := .x) (by decide) hw rfl
  · exact runs_pullWord (r := .y) (by decide) hw rfl

end Sys2Proof.Machine
end

section
/-! PROOFS. Steps by one, ABX, ABY and decimal adjust (spec R203, R204, R216, R220 to R232).

A step writes one register or one byte of memory and then flags of the result; `runs_stepWord`,
`runs_stepByte` and `runs_stepMem` say once what each shape does. `runs_daa` says all that DAA does;
`daa_of_digits` is the arithmetic of its correction, from the digits of the addends. -/

namespace Sys2Proof.Machine

/-! ### Steps of the 16-bit registers (R203, R204, R224 to R226, R230 to R232) -/

/-- A step of X or Y, with Z from the result (R225, R226, R231, R232). -/
theorem runs_stepWord {i : Instr} {r : Reg16} {v : Word} {s : State}
    (hi : exec i s = Res.done 1 ((s.write16 r v).setFlags (zOnly v))) :
    Runs i s fun t => t.read16 r = v ∧ (t.flagZ = true ↔ t.read16 r = 0) ∧ Past 1 s t ∧
      Frame (Reg16.parts r ++ [.flagZ]) [] s t :=
  runs_done hi ⟨State.read16_of_write16 _ r _ _ _, by rw [State.read16_of_write16]; simp [zOnly],
    by simp [Past], (Frame.write16 s r v).flagsAndAdvance (zOnly v) 1⟩

/-- Settles O37: ABX, ABY, DES and INS write one register and no flag, the others are
`runs_stepWord`. -/
theorem wordStepsWriteAtMostZ : Obligations.WordStepsWriteAtMostZ := by
  refine fun s => ⟨?_, ?_, ?_, ?_, ?_, ?_, ?_, ?_⟩
  · exact (runs_write16 (r := .x) rfl).imp fun t ⟨hx, hrest⟩ => ⟨hx.trans (add_zext16 _ _), hrest⟩
  · exact (runs_write16 (r := .y) rfl).imp fun t ⟨hy, hrest⟩ => ⟨hy.trans (add_zext16 _ _), hrest⟩
  · exact runs_write16 (r := .sp) rfl
  · exact runs_write16 (r := .sp) rfl
  · exact runs_stepWord (r := .x) rfl
  · exact runs_stepWord (r := .y) rfl
  · exact runs_stepWord (r := .x) rfl
  · exact runs_stepWord (r := .y) rfl

/-! ### INC and DEC (R220 to R223, R227 to R229) -/

/-- N and Z from a result, V as given, C unchanged: the flags of INC and DEC (R220). -/
def nzvFlags (v : Byte) (overflow : Bool) : FlagUpdate :=
  { n := some v.msb, z := some (v == 0), v := some overflow }

theorem incOp_eq (c : Bool) (m : Byte) : incOp c m = (m + 1, nzvFlags (m + 1) (m == 0x7F)) := rfl

theorem decOp_eq (c : Bool) (m : Byte) : decOp c m = (m - 1, nzvFlags (m - 1) (m == 0x80)) := rfl

theorem nz_nzvFlags (v : Byte) (overflow : Bool) (s : State) (len : Nat) :
    NZ v ((s.setFlags (nzvFlags v overflow)).advance len) :=
  nz_of (by simp [nzvFlags]) (by simp [nzvFlags])

theorem flagV_nzvFlags (v : Byte) (overflow : Bool) (s : State) (len : Nat) :
    ((s.setFlags (nzvFlags v overflow)).advance len).flagV = overflow := by simp [nzvFlags]

/-- A step of an accumulator, with V where `p` holds (R222, R223, R228, R229). -/
theorem runs_stepByte {i : Instr} {r : Reg8} (hr : r ≠ .ccr) {v : Byte} {overflow : Bool} {p : Prop}
    {s : State} (hi : exec i s = Res.done 1 ((s.write8 r v).setFlags (nzvFlags v overflow)))
    (hp : overflow = true ↔ p) :
    Runs i s fun t => t.read8 r = v ∧ NZ v t ∧ (t.flagV = true ↔ p) ∧ Past 1 s t ∧
      Frame (Reg8.parts r ++ nzvParts) [] s t :=
  runs_done hi ⟨State.read8_of_write8 s hr _ _ _, nz_nzvFlags _ _ _ _, by rwa [flagV_nzvFlags],
    by simp [Past], (Frame.write8 s hr v).flagsAndAdvance (nzvFlags v overflow) 1⟩

/-- A step of a byte of memory (R221, R227). -/
theorem runs_stepMem {i : Instr} {m : MemX} {f : Bool → Byte → Byte × FlagUpdate} {ea : Word}
    {v r : Byte} {overflow : Bool} {p : Prop} {s s1 : State}
    (h : memAddress .all (s.nextPc (1 + m.toMem.length)) m.toMem s = .next (ea, s1))
    (hv : HasByte s ea v) (hc : CanStore s ea) (hi : exec i s = modifyMem m f s)
    (hf : f s.flagC v = (r, nzvFlags r overflow)) (hp : overflow = true ↔ p) :
    Runs i s fun t => HasByte t ea r ∧ NZ r t ∧ (t.flagV = true ↔ p) ∧
      Past (1 + m.toMem.length) s t ∧ Frame nzvParts [ea] (Mem.after m.toMem s) t := by
  refine runs_modifyMem h hv hc hi ?_
  rw [hf]
  exact ⟨hasByte_of_memSet hc (by simp) (by simp), nz_nzvFlags _ _ _ _, by rwa [flagV_nzvFlags],
    by simp [Past], (Frame.setMem (sameMem_of_memSet (v := r) rfl (by simp))).transRegisters
      ((Frame.refl _).flagsAndAdvance (nzvFlags r overflow) _)⟩

theorem inc_overflow (m : Byte) : (m == 0x7F) = true ↔ ¬ Fits 8 (m.toInt + 1) :=
  beq_iff_eq.trans (incOp_overflow m)

theorem dec_overflow (m : Byte) : (m == 0x80) = true ↔ ¬ Fits 8 (m.toInt - 1) :=
  beq_iff_eq.trans (decOp_overflow m)

/-- Settles O38: each step is `runs_stepByte` or `runs_stepMem` with the overflow of its direction. -/
theorem incrementAndDecrementLeaveCarry : Obligations.IncrementAndDecrementLeaveCarry := by
  refine ⟨fun s => ⟨?_, ?_, ?_, ?_⟩, fun m ea v s s1 h hv hc => ⟨?_, ?_⟩⟩
  · exact runs_stepByte (r := .a) (by decide) rfl (inc_overflow s.a)
  · exact runs_stepByte (r := .b) (by decide) rfl (inc_overflow s.b)
  · exact runs_stepByte (r := .a) (by decide) rfl (dec_overflow s.a)
  · exact runs_stepByte (r := .b) (by decide) rfl (dec_overflow s.b)
  · exact runs_stepMem h hv hc rfl (incOp_eq _ v) (inc_overflow v)
  · exact runs_stepMem h hv hc rfl (decOp_eq _ v) (dec_overflow v)

/-! ### What DAA does (R216) -/

theorem Frame.drawBit (s : State) : Frame [.draws] [] s s.drawBit.2 :=
  .of_parts (fun p hp _ => by cases p <;> simp_all [Part.same]) rfl rfl

theorem Frame.drawByte (s : State) : Frame [.draws] [] s s.drawByte.2 :=
  .of_parts (fun p hp _ => by cases p <;> simp_all [Part.same]) rfl rfl

/-- The five draws where DAA leaves A, N, Z, V and C open (R216, D17). -/
def State.drawAdjust (s : State) : State :=
  s.drawByte.2.drawBit.2.drawBit.2.drawBit.2.drawBit.2

theorem Frame.drawAdjust (s : State) : Frame [.draws] [] s s.drawAdjust :=
  (((((Frame.drawByte s).trans (.drawBit _)).trans (.drawBit _)).trans (.drawBit _)).trans
    (.drawBit _)).mono (by simp)

@[simp] theorem State.drawAdjust_pc (s : State) : s.drawAdjust.pc = s.pc := rfl

/-- Where an addition of packed-BCD bytes can leave the state, DAA draws V and computes the rest. -/
theorem execDaa_of_valid {s : State} (h : daaValid s.a s.flagC s.flagH = true) :
    execDaa s = Res.done 2 ((s.drawBit.2.setA (s.a + daaCorrection s.a s.flagC s.flagH)).setFlags
      { n := some (s.a + daaCorrection s.a s.flagC s.flagH).msb
        z := some (s.a + daaCorrection s.a s.flagC s.flagH == 0)
        v := some s.drawBit.1
        c := some (s.flagC || daaHigh s.a s.flagC) }) :=
  if_pos h

/-- Elsewhere it draws A and the four flags. -/
theorem execDaa_of_not_valid {s : State} (h : ¬ daaValid s.a s.flagC s.flagH = true) :
    ∃ r n z v c, execDaa s = Res.done 2 ((s.drawAdjust.setA r).setFlags
      { n := some n, z := some z, v := some v, c := some c }) :=
  ⟨_, _, _, _, _, if_neg h⟩

/-- The old carry always asks for the high correction, so C is exactly whether $60 is added. -/
theorem or_daaHigh (a : Byte) (c : Bool) : (c || daaHigh a c) = daaHigh a c := by
  cases c <;> simp [daaHigh]

/-- Draws, a write of A and a write of N, Z, V and C: the frame of DAA on both of its branches. -/
theorem Frame.adjust {s s1 : State} (h : Frame [.draws] [] s s1) (r : Byte) (n z v c : Bool) :
    Frame [.a, .flagN, .flagZ, .flagV, .flagC, .draws] [] s
      (((s1.setA r).setFlags { n := some n, z := some z, v := some v, c := some c }).advance 2) :=
  ((h.trans (.write8 s1 (r := .a) (by decide) r)).flagsAndAdvance _ 2).mono
    (by simp [FlagUpdate.parts, Reg8.parts])

/-- DAA completes, and where it computes A gets its correction and C tells the correction of the high
digit (R216). -/
theorem runs_daa (s : State) : Runs .daa s fun t => Past 2 s t ∧
    Frame [.a, .flagN, .flagZ, .flagV, .flagC, .draws] [] s t ∧
    (daaValid s.a s.flagC s.flagH = true →
      t.a = s.a + daaCorrection s.a s.flagC s.flagH ∧ t.flagC = daaHigh s.a s.flagC ∧ NZ t.a t) := by
  by_cases hvalid : daaValid s.a s.flagC s.flagH = true
  · exact runs_done (execDaa_of_valid hvalid) ⟨by simp [Past], .adjust (.drawBit s) _ _ _ _ _,
      fun _ => ⟨rfl, by simp [or_daaHigh], nz_of (by simp) (by simp)⟩⟩
  · obtain ⟨r, n, z, v, c, hexec⟩ := execDaa_of_not_valid hvalid
    exact runs_done hexec ⟨by simp [Past], .adjust (.drawAdjust s) _ _ _ _ _,
      fun h => absurd h hvalid⟩

/-! ### The correction (R216) -/

/-- Whether $06 is added (R216). -/
def daaLow (a : Byte) (h : Bool) : Bool := h || decide (9 < a.toNat % 16)

theorem daaCorrection_eq (a : Byte) (c h : Bool) : daaCorrection a c h =
    (if daaLow a h then 0x06 else 0x00) + (if daaHigh a c then 0x60 else 0x00) := rfl

theorem daaLow_iff (a : Byte) (h : Bool) : daaLow a h = true ↔ h = true ∨ 9 < a.toNat % 16 := by
  simp [daaLow]

theorem daaHigh_iff (a : Byte) (c : Bool) : daaHigh a c = true ↔
    c = true ∨ 9 < a.toNat / 16 ∨ (a.toNat / 16 = 9 ∧ 9 < a.toNat % 16) := by
  simp [daaHigh, or_assoc]

/-- The states in which DAA computes, by the four cases of C and H (D17). -/
theorem daaValid_iff_digits (a : Byte) (c h : Bool) : daaValid a c h = true ↔
    (c = false ∧ h = false) ∨ (c = false ∧ h = true ∧ 1 ≤ a.toNat / 16 ∧ a.toNat % 16 ≤ 3) ∨
    (c = true ∧ h = false ∧ a.toNat / 16 ≤ 2) ∨
    (c = true ∧ h = true ∧ a.toNat / 16 ≤ 3 ∧ a.toNat % 16 ≤ 3) := by
  cases c <;> cases h <;> simp [daaValid]

/-- Settles O39: `runs_daa`, with the four cases of the correction. -/
theorem decimalAdjustCorrectsBothDigits : Obligations.DecimalAdjustCorrectsBothDigits := by
  intro s hi lo low high valid
  refine (runs_daa s).imp fun t ⟨hpast, hframe, hcomputed⟩ => ⟨hpast, hframe, fun hvalid => ?_⟩
  obtain ⟨ha, hc, hnz⟩ := hcomputed ((daaValid_iff_digits _ _ _).mpr hvalid)
  have hlow : daaLow s.a s.flagH = true ↔ low := daaLow_iff _ _
  have hhigh : daaHigh s.a s.flagC = true ↔ high := daaHigh_iff _ _
  rw [daaCorrection_eq] at ha
  refine ⟨fun l k => ?_, fun l k => ?_, fun l k => ?_, fun l k => ?_, hc ▸ hhigh, hnz⟩
  · rw [ha, if_pos (hlow.mpr l), if_pos (hhigh.mpr k)]; rfl
  · rw [ha, if_pos (hlow.mpr l), if_neg (mt hhigh.mp k)]; rfl
  · rw [ha, if_neg (mt hlow.mp l), if_pos (hhigh.mpr k)]; rfl
  · rw [ha, if_neg (mt hlow.mp l), if_neg (mt hhigh.mp k)]; simp

/-! ### The decimal sum (R207, R216) -/

theorem daaCorrection_toNat (a : Byte) (c h : Bool) :
    (daaCorrection a c h).toNat = 6 * (daaLow a h).toNat + 96 * (daaHigh a c).toNat := by
  rw [daaCorrection_eq]
  cases daaLow a h <;> cases daaHigh a c <;> rfl

/-- A bit that tells whether two decimal digits and a carry reach ten is their decimal carry. -/
theorem toNat_eq_div_ten {b : Bool} {n : Nat} (hb : b = true ↔ 10 ≤ n) (hn : n < 20) :
    b.toNat = n / 10 := by
  cases b with
  | false =>
    have hlt : n < 10 := by simpa using hb
    exact (Nat.div_eq_of_lt hlt).symm
  | true =>
    have hge : 10 ≤ n := hb.mp rfl
    rw [Bool.toNat_true]
    omega

/-- After an addition of the digits `x1 x0` and `y1 y0` with a carry `k`, $06 is added exactly where the
low digits make a decimal carry and $60 exactly where the high digits then make one, so A is left with
the last two decimal digits of the sum. -/
theorem daa_of_digits {a : Byte} {c h : Bool} {x1 x0 y1 y0 k : Nat} (hx1 : x1 ≤ 9) (hx0 : x0 ≤ 9)
    (hy1 : y1 ≤ 9) (hy0 : y0 ≤ 9) (hk : k ≤ 1)
    (hsum : (16 * x1 + x0) + (16 * y1 + y0) + k = a.toNat + 256 * c.toNat)
    (hhalf : h = true ↔ 16 ≤ x0 + y0 + k) :
    (a + daaCorrection a c h).toNat =
        16 * ((x1 + y1 + (x0 + y0 + k) / 10) % 10) + (x0 + y0 + k) % 10 ∧
      (daaHigh a c).toNat = (x1 + y1 + (x0 + y0 + k) / 10) / 10 := by
  have hbyte := a.isLt
  have hcarry : c = true ↔ 256 ≤ (16 * x1 + x0) + (16 * y1 + y0) + k := by
    rw [hsum]
    cases c with
    | false => simpa using hbyte
    | true => simp
  have hlow : (daaLow a h).toNat = (x0 + y0 + k) / 10 := by
    refine toNat_eq_div_ten ?_ (by omega)
    rw [daaLow_iff, hhalf]
    omega
  have hhigh : (daaHigh a c).toNat = (x1 + y1 + (x0 + y0 + k) / 10) / 10 := by
    refine toNat_eq_div_ten ?_ (by omega)
    rw [daaHigh_iff, hcarry]
    omega
  refine ⟨?_, hhigh⟩
  rw [BitVec.toNat_add, daaCorrection_toNat, hlow, hhigh]
  omega

/-- Packed BCD: both digits are decimal (R216). -/
def PackedBcd (v : Byte) : Prop := v.toNat / 16 ≤ 9 ∧ v.toNat % 16 ≤ 9

/-- The number that a packed-BCD byte stands for. -/
def bcdValue (v : Byte) : Nat := 10 * (v.toNat / 16) + v.toNat % 16

/-- DAA computes after an addition of packed-BCD bytes, and its result with C stands for their sum. -/
theorem daa_of_packedBcd {x y a : Byte} {c h : Bool} (hx : PackedBcd x) (hy : PackedBcd y)
    (hsum : x.toNat + y.toNat = a.toNat + 256 * c.toNat)
    (hhalf : h = true ↔ 16 ≤ x.toNat % 16 + y.toNat % 16) :
    daaValid a c h = true ∧ PackedBcd (a + daaCorrection a c h) ∧
      bcdValue (a + daaCorrection a c h) + 100 * (daaHigh a c).toNat = bcdValue x + bcdValue y := by
  obtain ⟨hx1, hx0⟩ := hx
  obtain ⟨hy1, hy0⟩ := hy
  have hdigits : (16 * (x.toNat / 16) + x.toNat % 16) + (16 * (y.toNat / 16) + y.toNat % 16) + 0 =
      a.toNat + 256 * c.toNat := by rwa [Nat.div_add_mod, Nat.div_add_mod, Nat.add_zero]
  obtain ⟨hr, hhigh⟩ := daa_of_digits hx1 hx0 hy1 hy0 (Nat.zero_le 1) hdigits hhalf
  refine ⟨(daaValid_iff a c h).mpr ⟨_, _, _, _, 0, hx1, hx0, hy1, hy0, Nat.zero_le 1, hdigits, hhalf⟩,
    ?_, ?_⟩
  · rw [PackedBcd, hr]; omega
  · rw [bcdValue, bcdValue, bcdValue, hr, hhigh]; omega

/-- What ADDA leaves in A and C together is the sum of the two bytes (R207). -/
theorem sum_eq_of_carry {x y : Byte} {c : Bool} (hc : c = true ↔ 2 ^ 8 ≤ x.toNat + y.toNat) :
    x.toNat + y.toNat = (x + y).toNat + 256 * c.toNat := by
  have hx := x.isLt
  have hy := y.isLt
  rw [BitVec.toNat_add]
  cases c with
  | false =>
    have hlt : x.toNat + y.toNat < 2 ^ 8 := by simpa using hc
    rw [Nat.mod_eq_of_lt hlt, Bool.toNat_false, Nat.mul_zero, Nat.add_zero]
  | true =>
    have hge : 2 ^ 8 ≤ x.toNat + y.toNat := hc.mp rfl
    rw [Bool.toNat_true]
    omega

/-- Settles O40: ADDA leaves the sum in A and C and the half carry in H, which is where DAA computes. -/
theorem decimalAdjustGivesTheDecimalSum : Obligations.DecimalAdjustGivesTheDecimalSum := by
  intro s m bcd value ha hm
  have hadda := (byteAdditionsSetAllFiveFlags.2 (.imm m) m s s rfl).1
  refine hadda.imp fun t ⟨hsum, ⟨_, _, hcarry⟩, hhalf, _⟩ => ?_
  obtain ⟨hvalid, hbcd, hvalue⟩ := daa_of_packedBcd ha hm (sum_eq_of_carry hcarry) hhalf
  rw [← hsum] at hvalid hbcd hvalue
  refine (runs_daa t).imp fun u ⟨_, _, hcomputed⟩ => ?_
  obtain ⟨hu, hc, _⟩ := hcomputed hvalid
  rw [hu, hc]
  exact ⟨hbcd, hvalue⟩

end Sys2Proof.Machine
end

section
/-! PROOFS. Tests, clears, complement and negate (spec R258 to R260, R274 to R276, R278 to R283).

A test writes N, Z, V and C alone; the others write an accumulator or a byte of memory as well.
`runs_accumulatorOp` and `runs_memoryOp` say once what each of these two shapes does, given what its
flags say wherever they are written. -/

namespace Sys2Proof.Machine

/-! ### The flags of each family -/

/-- What an update of the flags says, in every state that it and the closing advance leave. -/
def FlagUpdate.Says (u : FlagUpdate) (q : State → Prop) : Prop :=
  ∀ (s : State) (len : Nat), q ((s.setFlags u).advance len)

theorem nzv0c0_says (v : Byte) :
    (nzv0c0 v).Says fun t => NZ v t ∧ t.flagV = false ∧ t.flagC = false :=
  fun _ _ => ⟨nz_of (by simp [nzv0c0]) (by simp [nzv0c0]), by simp [nzv0c0], by simp [nzv0c0]⟩

theorem clearFlags_says : clearFlags.Says fun t =>
    t.flagN = false ∧ t.flagZ = true ∧ t.flagV = false ∧ t.flagC = false :=
  fun _ _ => ⟨by simp [clearFlags], by simp [clearFlags], by simp [clearFlags], by simp [clearFlags]⟩

/-- $FF minus a byte inverts every bit (R271). -/
theorem comOp_result (c : Bool) (m : Byte) : (comOp c m).1 = ~~~m :=
  BitVec.allOnes_sub_eq_not m

theorem comOp_says (c : Bool) (m : Byte) :
    (comOp c m).2.Says fun t => NZ (~~~m) t ∧ t.flagV = false ∧ t.flagC = true :=
  fun _ _ => ⟨comOp_result c m ▸ nz_of (by simp [comOp]) (by simp [comOp]), by simp [comOp],
    by simp [comOp]⟩

theorem negOp_result (c : Bool) (m : Byte) : (negOp c m).1 = 0 - m := BitVec.sub_zero _

theorem negOp_says (c : Bool) (m : Byte) : (negOp c m).2.Says (SubFlags 0 m false) :=
  fun _ _ => subFlags8_setFlags _ _ _ _ _

/-! ### Runs of each shape -/

/-- A test of an accumulator (R259, R260). -/
theorem runs_testAccumulator {i : Instr} {v : Byte} {s : State}
    (hi : exec i s = Res.done 1 (s.setFlags (nzv0c0 v))) :
    Runs i s fun t => NZ v t ∧ t.flagV = false ∧ t.flagC = false ∧ Past 1 s t ∧
      Frame nzvcParts [] s t :=
  have ⟨hnz, hv, hc⟩ := nzv0c0_says v s 1
  runs_done hi ⟨hnz, hv, hc, by simp [Past], (Frame.refl s).flagsAndAdvance (nzv0c0 v) 1⟩

/-- An operation on an accumulator and the flags (R271). -/
theorem runs_accumulatorOp {i : Instr} {r : Reg8} (hr : r ≠ .ccr) {v : Byte} {u : FlagUpdate}
    {q : State → Prop} {s : State} (hi : exec i s = Res.done 1 ((s.write8 r v).setFlags u))
    (hq : u.Says q) :
    Runs i s fun t => t.read8 r = v ∧ q t ∧ Past 1 s t ∧ Frame (Reg8.parts r ++ u.parts) [] s t :=
  runs_done hi ⟨State.read8_of_write8 s hr v u 1, hq _ _, by simp [Past],
    (Frame.write8 s hr v).flagsAndAdvance u 1⟩

/-- The state that a write of a byte and of flags leaves. -/
theorem stored_byte {m : Mem} {ea : Word} {v : Byte} {u : FlagUpdate} {q : State → Prop} {len : Nat}
    {s t : State} (hc : CanStore s ea) (hq : u.Says q)
    (ht : t = (((Mem.after m s).setMem (memSet s.mem ea.toNat v)).setFlags u).advance len) :
    HasByte t ea v ∧ q t ∧ Past len s t ∧ Frame u.parts [ea] (Mem.after m s) t := by
  subst ht
  exact ⟨hasByte_of_memSet hc (by simp) (by simp), hq _ _, by simp [Past],
    (Frame.setMem (sameMem_of_memSet (v := v) rfl (by simp))).transRegisters
      ((Frame.refl _).flagsAndAdvance u len)⟩

/-- An operation on a byte of memory and the flags (R271). -/
theorem runs_memoryOp {i : Instr} {m : MemX} {f : Bool → Byte → Byte × FlagUpdate} {ea : Word}
    {v : Byte} {q : State → Prop} {s s1 : State}
    (h : memAddress .all (s.nextPc (1 + m.toMem.length)) m.toMem s = .next (ea, s1))
    (hv : HasByte s ea v) (hc : CanStore s ea) (hi : exec i s = modifyMem m f s)
    (hq : (f s.flagC v).2.Says q) :
    Runs i s fun t => HasByte t ea (f s.flagC v).1 ∧ q t ∧ Past (1 + m.toMem.length) s t ∧
      Frame (f s.flagC v).2.parts [ea] (Mem.after m.toMem s) t :=
  runs_modifyMem h hv hc hi (stored_byte hc hq rfl)

/-! ### The statements -/

/-- COMA and COMB (R279, R280). -/
theorem runs_complement {i : Instr} {r : Reg8} (hr : r ≠ .ccr) {s : State}
    (hi : exec i s = Res.done 1 ((s.write8 r (comOp s.flagC (s.read8 r)).1).setFlags
      (comOp s.flagC (s.read8 r)).2)) :
    Runs i s fun t => (t.read8 r).toNat = 255 - (s.read8 r).toNat ∧ NZ (t.read8 r) t ∧
      t.flagV = false ∧ t.flagC = true ∧ Past 1 s t ∧
      Frame (Reg8.parts r ++ nzvcParts) [] s t := by
  refine (runs_accumulatorOp hr hi (comOp_says _ _)).imp
    fun t ⟨hresult, ⟨hnz, hv, hc⟩, hrest⟩ => ?_
  rw [hresult, comOp_result]
  exact ⟨BitVec.toNat_not, hnz, hv, hc, hrest⟩

/-- NEGA and NEGB (R282, R283). -/
theorem runs_negate {i : Instr} {r : Reg8} (hr : r ≠ .ccr) {s : State}
    (hi : exec i s = Res.done 1 ((s.write8 r (negOp s.flagC (s.read8 r)).1).setFlags
      (negOp s.flagC (s.read8 r)).2)) :
    Runs i s fun t => t.read8 r = 0 - s.read8 r ∧ SubFlags 0 (s.read8 r) false t ∧ Past 1 s t ∧
      Frame (Reg8.parts r ++ nzvcParts) [] s t :=
  (runs_accumulatorOp hr hi (negOp_says _ _)).imp
    fun _ ⟨hresult, hrest⟩ => ⟨hresult.trans (negOp_result _ _), hrest⟩

/-- COM in memory (R278). -/
theorem com_complements {m : MemX} {ea : Word} {v : Byte} {s s1 : State}
    (h : memAddress .all (s.nextPc (1 + m.toMem.length)) m.toMem s = .next (ea, s1))
    (hv : HasByte s ea v) (hc : CanStore s ea) :
    Runs (.com m) s fun t => HasByte t ea (~~~v) ∧ NZ (~~~v) t ∧ t.flagV = false ∧
      t.flagC = true ∧ Past (1 + m.toMem.length) s t ∧
      Frame nzvcParts [ea] (Mem.after m.toMem s) t :=
  (runs_memoryOp h hv hc rfl (comOp_says _ v)).imp
    fun _ ⟨hbyte, ⟨hnz, hV, hC⟩, hrest⟩ => ⟨comOp_result _ v ▸ hbyte, hnz, hV, hC, hrest⟩

/-- NEG in memory (R281). -/
theorem neg_negates {m : MemX} {ea : Word} {v : Byte} {s s1 : State}
    (h : memAddress .all (s.nextPc (1 + m.toMem.length)) m.toMem s = .next (ea, s1))
    (hv : HasByte s ea v) (hc : CanStore s ea) :
    Runs (.neg m) s fun t => HasByte t ea (0 - v) ∧ SubFlags 0 v false t ∧
      Past (1 + m.toMem.length) s t ∧ Frame nzvcParts [ea] (Mem.after m.toMem s) t :=
  (runs_memoryOp h hv hc rfl (negOp_says _ v)).imp
    fun _ ⟨hbyte, hrest⟩ => ⟨negOp_result _ v ▸ hbyte, hrest⟩

/-- Settles O46, by the operation's result and flags in each of its three places. -/
theorem complementAndNegateInvertTheOperand : Obligations.ComplementAndNegateInvertTheOperand := by
  refine ⟨fun s => ⟨?_, ?_, ?_, ?_⟩,
    fun m ea v s s1 h hv hc => ⟨com_complements h hv hc, neg_negates h hv hc⟩⟩
  · exact runs_complement (r := .a) (by decide) rfl
  · exact runs_complement (r := .b) (by decide) rfl
  · exact runs_negate (r := .a) (by decide) rfl
  · exact runs_negate (r := .b) (by decide) rfl

/-- CLRA and CLRB (R275, R276). -/
theorem runs_clear {i : Instr} {r : Reg8} (hr : r ≠ .ccr) {s : State}
    (hi : exec i s = Res.done 1 ((s.write8 r 0).setFlags clearFlags)) :
    Runs i s fun t => t.read8 r = 0 ∧ t.flagN = false ∧ t.flagZ = true ∧ t.flagV = false ∧
      t.flagC = false ∧ Past 1 s t ∧ Frame (Reg8.parts r ++ nzvcParts) [] s t :=
  (runs_accumulatorOp hr hi clearFlags_says).imp
    fun _ ⟨hresult, ⟨hn, hz, hv, hc⟩, hrest⟩ => ⟨hresult, hn, hz, hv, hc, hrest⟩

/-- TST reads the byte and writes the flags alone (R258). -/
theorem tst_tests {m : MemX} {ea : Word} {v : Byte} {s s1 : State}
    (h : memAddress .all (s.nextPc (1 + m.toMem.length)) m.toMem s = .next (ea, s1))
    (hbyte : HasByte s ea v) :
    Runs (.tst m) s fun t => NZ v t ∧ t.flagV = false ∧ t.flagC = false ∧
      Past (1 + m.toMem.length) s t ∧ Frame nzvcParts [] (Mem.after m.toMem s) t := by
  obtain rfl := memAddress_state h
  obtain ⟨hnz, hv, hc⟩ := nzv0c0_says v (Mem.after m.toMem s) (1 + m.toMem.length)
  have hread : readByte ea (Mem.after m.toMem s) = .next v :=
    readByte_eq_next.mpr ((hasByte_congr (by simp) (by simp)).mpr hbyte)
  have hexec : exec (.tst m) s = Res.done (1 + m.toMem.length)
      ((Mem.after m.toMem s).setFlags (nzv0c0 v)) :=
    andThen_eq_next.mpr ⟨_, h, andThen_eq_next.mpr ⟨v, hread, rfl⟩⟩
  exact runs_done hexec ⟨hnz, hv, hc, by simp [Past],
    (Frame.refl _).flagsAndAdvance (nzv0c0 v) (1 + m.toMem.length)⟩

/-- CLR writes the byte, which needs no value before (R274). -/
theorem clr_clears {m : MemX} {ea : Word} {s s1 : State}
    (h : memAddress .all (s.nextPc (1 + m.toMem.length)) m.toMem s = .next (ea, s1))
    (hstore : CanStore s ea) :
    Runs (.clr m) s fun t => HasByte t ea 0 ∧ t.flagN = false ∧ t.flagZ = true ∧
      t.flagV = false ∧ t.flagC = false ∧ Past (1 + m.toMem.length) s t ∧
      Frame nzvcParts [ea] (Mem.after m.toMem s) t := by
  obtain rfl := memAddress_state h
  have hwrite : writeByte ea 0 (Mem.after m.toMem s) =
      .next ((Mem.after m.toMem s).setMem (memSet s.mem ea.toNat 0)) :=
    writeByte_eq_next.mpr ⟨(canStore_congr (by simp)).mpr hstore, by simp⟩
  have hexec : exec (.clr m) s = Res.done (1 + m.toMem.length)
      (((Mem.after m.toMem s).setMem (memSet s.mem ea.toNat 0)).setFlags clearFlags) :=
    andThen_eq_next.mpr ⟨_, h, andThen_eq_next.mpr ⟨_, hwrite, rfl⟩⟩
  obtain ⟨hbyte, ⟨hn, hz, hv, hc⟩, hrest⟩ := stored_byte hstore clearFlags_says rfl
  exact runs_done hexec ⟨hbyte, hn, hz, hv, hc, hrest⟩

/-- Settles O42: the accumulator forms by their shape, TST and CLR by their lemmas. -/
theorem testsAndClearsClearOverflowAndCarry : Obligations.TestsAndClearsClearOverflowAndCarry := by
  refine ⟨fun s => ⟨?_, ?_, ?_, ?_⟩,
    fun m ea s s1 h => ⟨fun v hv => tst_tests h hv, fun hc => clr_clears h hc⟩⟩
  · exact runs_testAccumulator rfl
  · exact runs_testAccumulator rfl
  · exact runs_clear (r := .a) (by decide) rfl
  · exact runs_clear (r := .b) (by decide) rfl

end Sys2Proof.Machine
end

section
/-! PROOFS. Multiply (spec R261 to R264).

Y:D after the write of a 32-bit product is that product; its number is read from Y and D, unsigned or
signed, and its bits 31 and 15 are the top bits of Y and A. -/

namespace Sys2Proof.Machine

/-! ### Y:D (R261, R265) -/

@[simp] theorem State.setYD_yd (s : State) (p : BitVec 32) : (s.setYD p).yd = p := by
  rw [State.yd, State.setYD_y, State.setYD, State.setD_d,
    BitVec.extractLsb'_append_extractLsb'_eq_extractLsb' (by rfl), BitVec.extractLsb'_eq_self]

theorem State.yd_toNat (s : State) : s.yd.toNat = s.y.toNat * 65536 + s.d.toNat := by
  rw [State.yd, BitVec.toNat_append, ← Nat.shiftLeft_add_eq_or_of_lt s.d.isLt, Nat.shiftLeft_eq]

theorem State.yd_toInt (s : State) : s.yd.toInt = s.y.toInt * 65536 + s.d.toNat := by
  rw [State.yd, BitVec.toInt_append, if_neg (by decide), mul_comm]
  rfl

/-- Y holds bits 31 to 16. -/
theorem State.yd_msb (s : State) : s.yd.msb = s.y.msb := by
  rw [State.yd, BitVec.msb_append, if_neg (by decide)]

/-- A holds bits 15 to 8 of Y:D. -/
theorem State.yd_getLsbD_15 (s : State) : s.yd.getLsbD 15 = s.a.msb := by
  rw [State.yd, State.d, mkWord, BitVec.getLsbD_append, BitVec.getLsbD_append,
    BitVec.msb_eq_getLsbD_last]
  rfl

theorem Frame.setYD (s : State) (p : BitVec 32) : Frame [.y, .a, .b] [] s (s.setYD p) :=
  (Frame.write16 s .y _).trans (.setD _ _)

/-! ### The products -/

/-- A product of unsigned numbers fits twice their width. -/
theorem setWidth_mul_toNat {w v : Nat} (hv : v = w * 2) (a b : BitVec w) :
    (a.setWidth v * b.setWidth v).toNat = a.toNat * b.toNat := by
  subst hv
  rw [BitVec.toNat_mul, BitVec.toNat_setWidth_of_le (by omega),
    BitVec.toNat_setWidth_of_le (by omega), Nat.mod_eq_of_lt BitVec.toNat_mul_toNat_lt]

/-- So does a product of signed words: the largest is 2^30. -/
theorem signExtend_mul_toInt (a b : Word) :
    (a.signExtend 32 * b.signExtend 32).toInt = a.toInt * b.toInt := by
  have hlower := BitVec.le_toInt_mul_toInt (x := a) (y := b)
  have hupper := BitVec.toInt_mul_toInt_le (x := a) (y := b)
  rw [BitVec.toInt_mul, BitVec.toInt_signExtend_of_le (by decide),
    BitVec.toInt_signExtend_of_le (by decide)]
  exact Int.bmod_eq_of_le (by omega) (by omega)

theorem loByte_msb (w : Word) : (loByte w).msb = w.getLsbD 7 := by
  rw [loByte, BitVec.msb_eq_getLsbD_last, BitVec.getLsbD_extractLsb']
  rfl

/-- MUL: the product stands in D, and B holds its bits 7 to 0 (R264). -/
theorem mul_multiplies (s : State) : Runs .mul s fun t =>
    (mkWord t.a t.b).toNat = s.a.toNat * s.b.toNat ∧ t.flagC = t.b.msb ∧ Past 1 s t ∧
      Frame [.a, .b, .flagC] [] s t := by
  let p := zext16 s.a * zext16 s.b
  have hproduct : (mkWord (hiByte p) (loByte p)).toNat = s.a.toNat * s.b.toNat := by
    rw [mkWord_hiByte_loByte]
    exact setWidth_mul_toNat rfl s.a s.b
  exact runs_done (s1 := (s.setD p).setFlags { c := some (p.getLsbD 7) }) (len := 1) rfl
    ⟨hproduct, (State.setFlags_flagC _ _).trans (loByte_msb p).symm, by simp [Past],
      (Frame.setD s p).flagsAndAdvance { c := some (p.getLsbD 7) } 1⟩

/-- A product in Y:D with its flags (R262, R263). -/
theorem runs_product {i : Instr} {len : Nat} {p : BitVec 32} {s : State}
    (hi : exec i s = Res.done len ((s.setYD p).setFlags (productFlags p))) :
    Runs i s fun t => t.yd = p ∧ t.flagN = t.y.msb ∧ (t.flagZ = true ↔ p = 0) ∧
      t.flagC = t.a.msb ∧ Past len s t ∧ Frame [.a, .b, .y, .flagN, .flagZ, .flagC] [] s t := by
  have hyd : (((s.setYD p).setFlags (productFlags p)).advance len).yd = p := State.setYD_yd s p
  refine runs_done hi ⟨hyd, ?_, by simp [productFlags], ?_, by simp [Past],
    ((Frame.setYD s p).flagsAndAdvance (productFlags p) len).mono
      (by simp [productFlags, FlagUpdate.parts])⟩
  · rw [← State.yd_msb, hyd]
    simp [productFlags]
  · rw [← State.yd_getLsbD_15, hyd]
    simp [productFlags]

theorem emul_multiplies (s : State) : Runs .emul s fun t =>
    t.y.toNat * 65536 + (mkWord t.a t.b).toNat = (mkWord s.a s.b).toNat * s.y.toNat ∧
      t.flagN = t.y.msb ∧ (t.flagZ = true ↔ (mkWord s.a s.b).toNat * s.y.toNat = 0) ∧
      t.flagC = t.a.msb ∧ Past 1 s t ∧ Frame [.a, .b, .y, .flagN, .flagZ, .flagC] [] s t := by
  have hp := setWidth_mul_toNat (v := 32) rfl s.d s.y
  refine (runs_product (p := s.d.setWidth 32 * s.y.setWidth 32) rfl).imp
    fun t ⟨hyd, hn, hz, hrest⟩ => ⟨?_, hn, ?_, hrest⟩
  · exact (State.yd_toNat t).symm.trans (hyd ▸ hp)
  · rw [hz, ← BitVec.toNat_inj, hp]
    rfl

theorem emuls_multiplies (s : State) : Runs .emuls s fun t =>
    t.y.toInt * 65536 + (mkWord t.a t.b).toNat = (mkWord s.a s.b).toInt * s.y.toInt ∧
      t.flagN = t.y.msb ∧ (t.flagZ = true ↔ (mkWord s.a s.b).toInt * s.y.toInt = 0) ∧
      t.flagC = t.a.msb ∧ Past 2 s t ∧ Frame [.a, .b, .y, .flagN, .flagZ, .flagC] [] s t := by
  have hp := signExtend_mul_toInt s.d s.y
  refine (runs_product (p := s.d.signExtend 32 * s.y.signExtend 32) rfl).imp
    fun t ⟨hyd, hn, hz, hrest⟩ => ⟨?_, hn, ?_, hrest⟩
  · exact (State.yd_toInt t).symm.trans (hyd ▸ hp)
  · rw [hz, ← BitVec.toInt_inj, hp]
    rfl

/-- Settles O43, by the lemma of each product. -/
theorem multipliesGiveTheExactProduct : Obligations.MultipliesGiveTheExactProduct :=
  fun s => ⟨mul_multiplies s, emul_multiplies s, emuls_multiplies s⟩

end Sys2Proof.Machine
end

section
/-! PROOFS. Divide (spec R265 to R270).

EDIV, EDIVS and IDIVS have one shape: no quotient for a zero divisor, none where it does not fit, and
else a quotient in X or Y with the remainder in D. `runs_divide` says once what this shape does; each
divide then owes an equation for each of its three branches and the arithmetic of its quotient. IDIV and
FDIV always write X and share `runs_divideX`. -/

namespace Sys2Proof.Machine

/-! ### A divide that gives no quotient (R266, R267, R270) -/

theorem Frame.drawWord (s : State) : Frame [.draws] [] s s.drawWord.2 :=
  .of_parts (fun p hp _ => by cases p <;> simp_all [Part.same]) rfl rfl

@[simp] theorem State.failedFlags_flagC (s : State) (d : Bool) : (s.failedFlags d).flagC = d := by
  cases d <;> simp [State.failedFlags]

/-- V tells an overflow; after a zero divisor it is drawn. -/
theorem State.failedFlags_flagV (s : State) : (s.failedFlags false).flagV = true := by
  simp [State.failedFlags]

theorem Frame.failedFlags (s : State) (d : Bool) :
    Frame (nzvcParts ++ [.draws]) [] s (s.failedFlags d) := by
  have hdraws := (Frame.drawBit s).trans (.drawBit _)
  cases d with
  | false => exact (hdraws.trans (.setFlags _ _)).mono (by simp [FlagUpdate.parts])
  | true =>
    exact ((hdraws.trans (.drawBit _)).trans (.setFlags _ _)).mono (by simp [FlagUpdate.parts])

/-- A divide that gives no quotient: the flags, then a drawn word in the quotient's register and one in
D. `failedDivide` is this at Y and `failedDivide16` at X. -/
def State.noQuotient (r : Reg16) (zeroDivisor : Bool) (s : State) : State :=
  let (q, s1) := (s.failedFlags zeroDivisor).drawWord
  let (rem, s2) := s1.drawWord
  (s2.write16 r q).setD rem

@[simp] theorem State.noQuotient_flagC (s : State) (r : Reg16) (d : Bool) :
    (s.noQuotient r d).flagC = d := by
  simp [State.noQuotient]

@[simp] theorem State.noQuotient_flagV (s : State) (r : Reg16) :
    (s.noQuotient r false).flagV = true := by
  simp [State.noQuotient, State.failedFlags_flagV]

@[simp] theorem State.noQuotient_pc (s : State) (r : Reg16) (d : Bool) :
    (s.noQuotient r d).pc = s.pc := by
  simp [State.noQuotient]

/-- What a divide may write, its quotient's register apart. -/
abbrev divideParts : List Part := [.a, .b, .flagN, .flagZ, .flagV, .flagC, .draws]

theorem Frame.noQuotient (s : State) (r : Reg16) (d : Bool) :
    Frame (Reg16.parts r ++ divideParts) [] s (s.noQuotient r d) :=
  (((((Frame.failedFlags s d).trans (.drawWord _)).trans (.drawWord _)).trans
    (.write16 _ r _)).trans (.setD _ _)).mono (by simp)

/-! ### EDIV, EDIVS and IDIVS -/

/-- Writing the remainder to D leaves the quotient's register, which is X or Y. -/
theorem State.read16_of_setD {r : Reg16} (hr : r ≠ .d) (q rem : Word) (u : FlagUpdate) (len : Nat)
    (s : State) : ((((s.write16 r q).setD rem).setFlags u).advance len).read16 r = q := by
  cases r with
  | d => exact absurd rfl hr
  | x | y | sp => rfl

/-- A divide of the shape of EDIV, EDIVS and IDIVS: `fits` tells whether the quotient fits. -/
theorem runs_divide {i : Instr} {len : Nat} {r : Reg16} (hr : r ≠ .d) {fits : Prop} {q rem : Word}
    {s : State} (hzero : s.x = 0 → exec i s = Res.done len (s.noQuotient r true))
    (hoverflow : s.x ≠ 0 → ¬ fits → exec i s = Res.done len (s.noQuotient r false))
    (hquotient : s.x ≠ 0 → fits → exec i s =
      Res.done len (((s.write16 r q).setD rem).setFlags (quotientFlags q))) :
    Runs i s fun t => Past len s t ∧ Frame (Reg16.parts r ++ divideParts) [] s t ∧
      (t.flagC = true ↔ s.x = 0) ∧
      (s.x ≠ 0 → (t.flagV = true ↔ ¬ fits) ∧
        (fits → t.read16 r = q ∧ t.d = rem ∧ NZ q t ∧ t.draws = s.draws)) := by
  by_cases hx : s.x = 0
  · exact runs_done (hzero hx) ⟨by simp [Past], (Frame.noQuotient s r true).thenAdvance len,
      iff_of_true (by simp) hx, fun hne => absurd hx hne⟩
  · by_cases hfits : fits
    · exact runs_done (hquotient hx hfits) ⟨by simp [Past],
        (((Frame.write16 s r q).trans (.setD _ rem)).flagsAndAdvance (quotientFlags q) len).mono
          (by simp [quotientFlags, FlagUpdate.parts]),
        iff_of_false (by simp [quotientFlags]) hx, fun _ => ⟨by simp [quotientFlags, hfits], fun _ =>
          ⟨State.read16_of_setD hr .., mkWord_hiByte_loByte rem,
            nz_of (by simp [quotientFlags]) (by simp [quotientFlags]), by simp⟩⟩⟩
    · exact runs_done (hoverflow hx hfits) ⟨by simp [Past],
        (Frame.noQuotient s r false).thenAdvance len, iff_of_false (by simp) hx,
        fun _ => ⟨by simp [hfits], fun h => absurd h hfits⟩⟩

/-! ### Unsigned quotients -/

theorem toNat_pos {d : Word} (hd : d ≠ 0) : 0 < d.toNat := Nat.pos_of_ne_zero (toNat_ne_of_ne hd)

/-- The quotient of Y:D by X fits a word exactly where Y is below X (R266). -/
theorem quotient_fits_iff {s : State} (hx : s.x ≠ 0) :
    s.yd.toNat / s.x.toNat < 65536 ↔ s.y.toNat < s.x.toNat := by
  have hd := s.d.isLt
  rw [State.yd_toNat, Nat.div_lt_iff_lt_mul (toNat_pos hx)]
  omega

/-- A quotient that fits and the remainder, as words, give the dividend back. -/
theorem ofNat_div_mod {n : Nat} {d : Word} (hd : d ≠ 0) (hq : n / d.toNat < 65536) :
    (BitVec.ofNat 16 (n / d.toNat)).toNat * d.toNat + (BitVec.ofNat 16 (n % d.toNat)).toNat = n ∧
      (BitVec.ofNat 16 (n % d.toNat)).toNat < d.toNat := by
  have hmod : n % d.toNat < d.toNat := Nat.mod_lt _ (toNat_pos hd)
  have hword := d.isLt
  rw [BitVec.toNat_ofNat, BitVec.toNat_ofNat, Nat.mod_eq_of_lt hq,
    Nat.mod_eq_of_lt (hmod.trans hword)]
  exact ⟨Nat.div_add_mod' n d.toNat, hmod⟩

theorem exec_ediv_of_zero {s : State} (hx : s.x = 0) :
    exec .ediv s = Res.done 1 (s.noQuotient .y true) := if_pos (by simp [hx])

theorem exec_ediv_of_overflow {s : State} (hx : s.x ≠ 0)
    (hover : ¬ s.yd.toNat / s.x.toNat < 65536) :
    exec .ediv s = Res.done 1 (s.noQuotient .y false) :=
  (if_neg (toNat_ne_of_ne hx)).trans (if_pos (by omega))

theorem exec_ediv_of_fits {s : State} (hx : s.x ≠ 0) (hfits : s.yd.toNat / s.x.toNat < 65536) :
    exec .ediv s = Res.done 1 (((s.write16 .y (BitVec.ofNat 16 (s.yd.toNat / s.x.toNat))).setD
      (BitVec.ofNat 16 (s.yd.toNat % s.x.toNat))).setFlags
        (quotientFlags (BitVec.ofNat 16 (s.yd.toNat / s.x.toNat)))) :=
  (if_neg (toNat_ne_of_ne hx)).trans (if_neg (by omega))

theorem ediv_divides (s : State) : Runs .ediv s fun t => Past 1 s t ∧
    Frame [.a, .b, .y, .flagN, .flagZ, .flagV, .flagC, .draws] [] s t ∧
    (t.flagC = true ↔ s.x = 0) ∧
    (s.x ≠ 0 → s.x.toNat ≤ s.y.toNat → t.flagV = true) ∧
    (s.y.toNat < s.x.toNat →
      t.y.toNat * s.x.toNat + (mkWord t.a t.b).toNat =
        s.y.toNat * 65536 + (mkWord s.a s.b).toNat ∧
      (mkWord t.a t.b).toNat < s.x.toNat ∧ NZ t.y t ∧ t.flagV = false ∧ t.draws = s.draws) := by
  refine (runs_divide (by decide) exec_ediv_of_zero exec_ediv_of_overflow exec_ediv_of_fits).imp
    fun t ⟨hpast, hframe, hc, hdivide⟩ => ⟨hpast, hframe.mono (by simp [Reg16.parts]), hc,
      fun hx hle => ?_, fun hlt => ?_⟩
  · exact (hdivide hx).1.mpr fun h => absurd ((quotient_fits_iff hx).mp h) (Nat.not_lt.mpr hle)
  · have hx : s.x ≠ 0 := fun h => by simp [h] at hlt
    obtain ⟨hv, hquotient⟩ := hdivide hx
    have hfit := (quotient_fits_iff hx).mpr hlt
    obtain ⟨hq, hrem, hnz, hdraws⟩ := hquotient hfit
    obtain ⟨hsum, hsmall⟩ := ofNat_div_mod hx hfit
    rw [← hrem] at hsum hsmall
    rw [← hq] at hsum hnz
    exact ⟨hsum.trans s.yd_toNat, hsmall, hnz, by simpa [hfit] using hv, hdraws⟩

/-! ### IDIV and FDIV -/

/-- The flags of IDIV and FDIV: Z from X, N unchanged (R268, R269). -/
def xFlags (q : Word) (v c : Bool) : FlagUpdate :=
  { z := some (q == 0), v := some v, c := some c }

/-- A divide of the shape of IDIV and FDIV: X, D and the flags are written from a state that has drawn
nothing or D alone. -/
theorem runs_divideX {i : Instr} {q rem : Word} {v c : Bool} {s s1 : State}
    (hs : Frame [.draws] [] s s1) (hpc : s1.pc = s.pc)
    (hi : exec i s = Res.done 2 (((s1.setX q).setD rem).setFlags (xFlags q v c))) :
    Runs i s fun t => Past 2 s t ∧ Frame [.a, .b, .x, .flagZ, .flagV, .flagC, .draws] [] s t ∧
      t.x = q ∧ t.d = rem ∧ (t.flagZ = true ↔ t.x = 0) ∧ t.flagV = v ∧ t.flagC = c ∧
      t.draws = s1.draws :=
  runs_done hi ⟨by simp [Past, hpc],
    (((hs.trans (.write16 s1 .x q)).trans (.setD _ rem)).flagsAndAdvance (xFlags q v c) 2).mono
      (by simp [xFlags, FlagUpdate.parts, Reg16.parts]),
    rfl, mkWord_hiByte_loByte rem, by simp [xFlags], by simp [xFlags], by simp [xFlags], by simp⟩

theorem exec_idiv_of_zero {s : State} (hx : s.x = 0) :
    exec .idiv s = Res.done 2 (((s.drawWord.2.setX 0xFFFF).setD s.drawWord.1).setFlags
      (xFlags 0xFFFF false true)) := if_pos hx

theorem exec_idiv_of_ne_zero {s : State} (hx : s.x ≠ 0) :
    exec .idiv s = Res.done 2 (((s.setX (s.d / s.x)).setD (s.d % s.x)).setFlags
      (xFlags (s.d / s.x) false false)) := if_neg hx

theorem idiv_divides (s : State) : Runs .idiv s fun t => Past 2 s t ∧
    Frame [.a, .b, .x, .flagZ, .flagV, .flagC, .draws] [] s t ∧
    (t.flagC = true ↔ s.x = 0) ∧ t.flagV = false ∧ (t.flagZ = true ↔ t.x = 0) ∧
    (s.x = 0 → t.x = 0xFFFF) ∧
    (s.x ≠ 0 →
      t.x.toNat * s.x.toNat + (mkWord t.a t.b).toNat = (mkWord s.a s.b).toNat ∧
      (mkWord t.a t.b).toNat < s.x.toNat ∧ t.draws = s.draws) := by
  by_cases hx : s.x = 0
  · refine (runs_divideX (Frame.drawWord s) rfl (exec_idiv_of_zero hx)).imp
      fun t ⟨hpast, hframe, hq, _, hz, hv, hc, _⟩ => ?_
    exact ⟨hpast, hframe, iff_of_true hc hx, hv, hz, fun _ => hq, fun h => absurd hx h⟩
  · refine (runs_divideX ((Frame.refl s).mono (by simp)) rfl (exec_idiv_of_ne_zero hx)).imp
      fun t ⟨hpast, hframe, hq, hrem, hz, hv, hc, hdraws⟩ => ?_
    refine ⟨hpast, hframe, iff_of_false (by simp [hc]) hx, hv, hz, fun h => absurd h hx, fun _ => ?_⟩
    have hword : mkWord t.a t.b = s.d % s.x := hrem
    rw [hq, hword, BitVec.toNat_udiv, BitVec.toNat_umod]
    exact ⟨Nat.div_add_mod' _ _, Nat.mod_lt _ (toNat_pos hx), hdraws⟩

theorem exec_fdiv_of_overflow {s : State} (hle : s.x.toNat ≤ s.d.toNat) :
    exec .fdiv s = Res.done 2 (((s.drawWord.2.setX 0xFFFF).setD s.drawWord.1).setFlags
      (xFlags 0xFFFF true (s.x.toNat == 0))) := if_pos hle

theorem exec_fdiv_of_lt {s : State} (hlt : s.d.toNat < s.x.toNat) :
    exec .fdiv s = Res.done 2 (((s.setX (BitVec.ofNat 16 (s.d.toNat * 65536 / s.x.toNat))).setD
      (BitVec.ofNat 16 (s.d.toNat * 65536 % s.x.toNat))).setFlags
        (xFlags (BitVec.ofNat 16 (s.d.toNat * 65536 / s.x.toNat)) false false)) :=
  if_neg (Nat.not_le.mpr hlt)

theorem fdiv_divides (s : State) : Runs .fdiv s fun t => Past 2 s t ∧
    Frame [.a, .b, .x, .flagZ, .flagV, .flagC, .draws] [] s t ∧
    (t.flagC = true ↔ s.x = 0) ∧ (t.flagV = true ↔ s.x.toNat ≤ (mkWord s.a s.b).toNat) ∧
    (t.flagZ = true ↔ t.x = 0) ∧
    (s.x.toNat ≤ (mkWord s.a s.b).toNat → t.x = 0xFFFF) ∧
    ((mkWord s.a s.b).toNat < s.x.toNat →
      t.x.toNat * s.x.toNat + (mkWord t.a t.b).toNat = (mkWord s.a s.b).toNat * 65536 ∧
      (mkWord t.a t.b).toNat < s.x.toNat ∧ t.draws = s.draws) := by
  by_cases hle : s.x.toNat ≤ s.d.toNat
  · refine (runs_divideX (Frame.drawWord s) rfl (exec_fdiv_of_overflow hle)).imp
      fun t ⟨hpast, hframe, hq, _, hz, hv, hc, _⟩ => ?_
    have hzero : t.flagC = true ↔ s.x = 0 := by
      rw [hc, beq_iff_eq, ← BitVec.toNat_inj]
      rfl
    exact ⟨hpast, hframe, hzero, iff_of_true hv hle, hz, fun _ => hq,
      fun h => absurd hle (Nat.not_le.mpr h)⟩
  · have hlt : s.d.toNat < s.x.toNat := Nat.not_le.mp hle
    have hx : s.x ≠ 0 := fun h => by simp [h] at hlt
    have hfit : s.d.toNat * 65536 / s.x.toNat < 65536 := by
      rw [Nat.div_lt_iff_lt_mul (toNat_pos hx)]
      omega
    refine (runs_divideX ((Frame.refl s).mono (by simp)) rfl (exec_fdiv_of_lt hlt)).imp
      fun t ⟨hpast, hframe, hq, hrem, hz, hv, hc, hdraws⟩ => ?_
    obtain ⟨hsum, hsmall⟩ := ofNat_div_mod hx hfit
    rw [← hrem] at hsum hsmall
    rw [← hq] at hsum
    exact ⟨hpast, hframe, iff_of_false (by simp [hc]) hx, iff_of_false (by simp [hv]) hle, hz,
      fun h => absurd h hle, fun _ => ⟨hsum, hsmall, hdraws⟩⟩

/-- Settles O44, by the lemma of each divide. -/
theorem unsignedDividesGiveQuotientAndRemainder :
    Obligations.UnsignedDividesGiveQuotientAndRemainder :=
  fun s => ⟨ediv_divides s, idiv_divides s, fdiv_divides s⟩

/-! ### Signed quotients -/

theorem toInt_ne_zero {d : Word} (hd : d ≠ 0) : d.toInt ≠ 0 :=
  fun h => hd (BitVec.toInt_inj.mp h)

theorem toInt_fits (d : Word) : Fits 16 d.toInt := ⟨BitVec.le_toInt d, BitVec.toInt_lt⟩

theorem ofInt_toInt_of_fits {z : Int} (hz : Fits 16 z) : (BitVec.ofInt 16 z).toInt = z :=
  BitVec.toInt_ofInt_eq_self (by decide) hz.1 hz.2

/-- The remainder is less than the divisor, whatever the dividend. -/
theorem tmod_fits (n : Int) {d : Word} (hd : d ≠ 0) : Fits 16 (n.tmod d.toInt) := by
  have hnonzero := toInt_ne_zero hd
  obtain ⟨hlower, hupper⟩ := (fits16 _).mp (toInt_fits d)
  have hlt : (n.tmod d.toInt).natAbs < d.toInt.natAbs := by
    rw [Int.natAbs_tmod]
    exact Nat.mod_lt _ (Int.natAbs_pos.mpr hnonzero)
  rw [fits16]
  omega

/-- The one quotient of two words that does not fit is 32768 (R270). -/
theorem tdiv_fits_iff (n : Word) {d : Word} (hd : d ≠ 0) :
    Fits 16 (n.toInt.tdiv d.toInt) ↔ ¬ (n.toInt = -32768 ∧ d.toInt = -1) := by
  have hnonzero := toInt_ne_zero hd
  obtain ⟨hlower, hupper⟩ := (fits16 _).mp (toInt_fits n)
  rw [fits16]
  by_cases hone : d.toInt = 1
  · rw [hone, Int.tdiv_one]
    omega
  · by_cases hminus : d.toInt = -1
    · rw [hminus, Int.tdiv_neg, Int.tdiv_one]
      omega
    · have habs : (n.toInt.tdiv d.toInt).natAbs ≤ n.toInt.natAbs / 2 := by
        rw [Int.natAbs_tdiv]
        exact Nat.div_le_div_left (by omega) (by decide)
      omega

/-- The words of a signed quotient that fits and of its remainder, as EDIVS and IDIVS write them. -/
def signedQuotient (n : Int) (d : Word) : Word := BitVec.ofInt 16 (n.tdiv d.toInt)

def signedRemainder (n : Int) (d : Word) : Word := BitVec.ofInt 16 (n.tmod d.toInt)

theorem signedQuotient_toInt {n : Int} {d : Word} (h : Fits 16 (n.tdiv d.toInt)) :
    (signedQuotient n d).toInt = n.tdiv d.toInt := ofInt_toInt_of_fits h

theorem signedRemainder_toInt (n : Int) {d : Word} (hd : d ≠ 0) :
    (signedRemainder n d).toInt = n.tmod d.toInt := ofInt_toInt_of_fits (tmod_fits n hd)

/-- A signed divide of `n` by X, given its three branches. -/
theorem runs_signedDivide {i : Instr} {r : Reg16} (hr : r ≠ .d) {n : Int} {s : State}
    (hzero : s.x = 0 → exec i s = Res.done 2 (s.noQuotient r true))
    (hoverflow : s.x ≠ 0 → ¬ Fits 16 (n.tdiv s.x.toInt) →
      exec i s = Res.done 2 (s.noQuotient r false))
    (hquotient : s.x ≠ 0 → Fits 16 (n.tdiv s.x.toInt) →
      exec i s = Res.done 2 (((s.write16 r (signedQuotient n s.x)).setD
        (signedRemainder n s.x)).setFlags (quotientFlags (signedQuotient n s.x)))) :
    Runs i s fun t => Past 2 s t ∧ Frame (Reg16.parts r ++ divideParts) [] s t ∧
      (t.flagC = true ↔ s.x = 0) ∧
      (s.x ≠ 0 → (t.flagV = true ↔ ¬ Fits 16 (n.tdiv s.x.toInt)) ∧
        (Fits 16 (n.tdiv s.x.toInt) →
          (t.read16 r).toInt = n.tdiv s.x.toInt ∧ t.d.toInt = n.tmod s.x.toInt ∧
          NZ (t.read16 r) t ∧ t.draws = s.draws)) := by
  refine (runs_divide hr hzero hoverflow hquotient).imp
    fun t ⟨hpast, hframe, hc, hdivide⟩ => ⟨hpast, hframe, hc, fun hx => ?_⟩
  obtain ⟨hv, hdone⟩ := hdivide hx
  refine ⟨hv, fun hfits => ?_⟩
  obtain ⟨hq, hrem, hnz, hdraws⟩ := hdone hfits
  rw [hq, hrem]
  exact ⟨signedQuotient_toInt hfits, signedRemainder_toInt n hx, hnz, hdraws⟩

theorem exec_edivs_of_zero {s : State} (hx : s.x = 0) :
    exec .edivs s = Res.done 2 (s.noQuotient .y true) := if_pos (by simp [hx])

theorem exec_edivs_of_overflow {s : State} (hx : s.x ≠ 0)
    (hover : ¬ Fits 16 (s.yd.toInt.tdiv s.x.toInt)) :
    exec .edivs s = Res.done 2 (s.noQuotient .y false) :=
  (if_neg (toInt_ne_zero hx)).trans (if_pos (by rw [fits16] at hover; omega))

theorem exec_edivs_of_fits {s : State} (hx : s.x ≠ 0)
    (hfits : Fits 16 (s.yd.toInt.tdiv s.x.toInt)) :
    exec .edivs s = Res.done 2 (((s.write16 .y (signedQuotient s.yd.toInt s.x)).setD
      (signedRemainder s.yd.toInt s.x)).setFlags
        (quotientFlags (signedQuotient s.yd.toInt s.x))) :=
  (if_neg (toInt_ne_zero hx)).trans (if_neg (by rw [fits16] at hfits; omega))

/-- EDIVS, with the dividend Y:D as the two registers give it (R267). -/
theorem edivs_divides (s : State) : Runs .edivs s fun t => Past 2 s t ∧
    Frame [.a, .b, .y, .flagN, .flagZ, .flagV, .flagC, .draws] [] s t ∧
    (t.flagC = true ↔ s.x = 0) ∧
    (s.x ≠ 0 →
      let n : Int := s.y.toInt * 65536 + (mkWord s.a s.b).toNat
      (t.flagV = true ↔ ¬ Fits 16 (n.tdiv s.x.toInt)) ∧
      (Fits 16 (n.tdiv s.x.toInt) →
        t.y.toInt = n.tdiv s.x.toInt ∧ (mkWord t.a t.b).toInt = n.tmod s.x.toInt ∧
        NZ t.y t ∧ t.draws = s.draws)) := by
  refine (runs_signedDivide (by decide) exec_edivs_of_zero exec_edivs_of_overflow
    exec_edivs_of_fits).imp fun t ⟨hpast, hframe, hc, hdivide⟩ =>
      ⟨hpast, hframe.mono (by simp [Reg16.parts]), hc, fun hx => ?_⟩
  rw [State.yd_toInt] at hdivide
  exact hdivide hx

theorem exec_idivs_of_zero {s : State} (hx : s.x = 0) :
    exec .idivs s = Res.done 2 (s.noQuotient .x true) := if_pos (by simp [hx])

/-- IDIVS tests the upper bound alone: no quotient of two words is below -32768. -/
theorem exec_idivs_of_overflow {s : State} (hx : s.x ≠ 0)
    (hover : ¬ Fits 16 (s.d.toInt.tdiv s.x.toInt)) :
    exec .idivs s = Res.done 2 (s.noQuotient .x false) := by
  refine (if_neg (toInt_ne_zero hx)).trans (if_pos ?_)
  obtain ⟨hn, hd⟩ := not_not.mp (mt (tdiv_fits_iff s.d hx).mpr hover)
  rw [hn, hd]
  decide

theorem exec_idivs_of_fits {s : State} (hx : s.x ≠ 0)
    (hfits : Fits 16 (s.d.toInt.tdiv s.x.toInt)) :
    exec .idivs s = Res.done 2 (((s.write16 .x (signedQuotient s.d.toInt s.x)).setD
      (signedRemainder s.d.toInt s.x)).setFlags (quotientFlags (signedQuotient s.d.toInt s.x))) :=
  (if_neg (toInt_ne_zero hx)).trans (if_neg (by rw [fits16] at hfits; omega))

theorem idivs_divides (s : State) : Runs .idivs s fun t => Past 2 s t ∧
    Frame [.a, .b, .x, .flagN, .flagZ, .flagV, .flagC, .draws] [] s t ∧
    (t.flagC = true ↔ s.x = 0) ∧
    (s.x ≠ 0 →
      let n : Int := (mkWord s.a s.b).toInt
      (t.flagV = true ↔ n = -32768 ∧ s.x.toInt = -1) ∧
      (¬ (n = -32768 ∧ s.x.toInt = -1) →
        t.x.toInt = n.tdiv s.x.toInt ∧ (mkWord t.a t.b).toInt = n.tmod s.x.toInt ∧
        NZ t.x t ∧ t.draws = s.draws)) := by
  refine (runs_signedDivide (by decide) exec_idivs_of_zero exec_idivs_of_overflow
    exec_idivs_of_fits).imp fun t ⟨hpast, hframe, hc, hdivide⟩ =>
      ⟨hpast, hframe.mono (by simp [Reg16.parts]), hc, fun hx => ?_⟩
  rw [tdiv_fits_iff s.d hx, not_not] at hdivide
  exact hdivide hx

/-- Settles O45, by the lemma of each divide. -/
theorem signedDividesTruncateTowardZero : Obligations.SignedDividesTruncateTowardZero :=
  fun s => ⟨edivs_divides s, idivs_divides s⟩

end Sys2Proof.Machine
end

section
/-! PROOFS. Branches, bit-condition branches and loop primitives (spec R300 to R348).

A short branch and its long form read the same condition, so what each condition says of the flags is
said once, and after a compare what it says of the compared numbers. `runs_branchIf` says where a
branch leaves the machine when other parts of the instruction come before it. -/

namespace Sys2Proof.Machine

/-! ### The conditions (R302) -/

theorem State.condHi_iff (s : State) : s.condHi = true ↔ s.flagC = false ∧ s.flagZ = false := by
  simp [State.condHi]

theorem State.condGe_iff (s : State) : s.condGe = true ↔ s.flagN = s.flagV := by
  simp [State.condGe]

theorem State.condGt_iff (s : State) :
    s.condGt = true ↔ s.flagZ = false ∧ s.flagN = s.flagV := by
  simp [State.condGt]

/-- LS is the negation of HI. -/
theorem State.not_condHi_iff (s : State) :
    (!s.condHi) = true ↔ s.flagC = true ∨ s.flagZ = true := by
  rw [Bool.not_eq_true', ← Bool.not_eq_true, s.condHi_iff, not_and_or, Bool.not_eq_false,
    Bool.not_eq_false]

/-- LT is the negation of GE. -/
theorem State.not_condGe_iff (s : State) : (!s.condGe) = true ↔ s.flagN ≠ s.flagV := by
  rw [Bool.not_eq_true', ← Bool.not_eq_true, s.condGe_iff]

/-- LE is the negation of GT. -/
theorem State.not_condGt_iff (s : State) :
    (!s.condGt) = true ↔ s.flagZ = true ∨ s.flagN ≠ s.flagV := by
  rw [Bool.not_eq_true', ← Bool.not_eq_true, s.condGt_iff, not_and_or, Bool.not_eq_false]

/-! ### The branches (R303 to R338) -/

/-- A branch that is taken when a flag is clear. -/
theorem goes_of_branchIf_not {i : Instr} {len : Nat} {rel : Word} {s : State} {flag : Bool}
    (hi : exec i s = branchIf (!flag) len rel s) : Goes i len rel s (flag = false) :=
  goes_of_branchIf hi (iff_of_eq (Bool.not_eq_true' flag))

/-- Settles O47, by the flag that each branch reads. -/
theorem shortBranchesOnOneFlag : Obligations.ShortBranchesOnOneFlag := by
  refine fun s rr => ⟨?bra, ?brn, ?bcc, ?bcs, ?beq, ?bmi, ?bne, ?bpl, ?bvc, ?bvs⟩
  case bra => exact goes_of_branchIf rfl (iff_true_intro rfl)
  case brn => exact goes_of_branchIf rfl (iff_of_false Bool.false_ne_true id)
  case bcs | beq | bmi | bvs => exact goes_of_branchIf rfl Iff.rfl
  case bcc | bne | bpl | bvc => exact goes_of_branchIf_not rfl

/-- Settles O49, by the flag that each branch reads. -/
theorem longBranchesOnOneFlag : Obligations.LongBranchesOnOneFlag := by
  refine fun s qr => ⟨?lbra, ?lbrn, ?lbcc, ?lbcs, ?lbeq, ?lbmi, ?lbne, ?lbpl, ?lbvc, ?lbvs⟩
  case lbra => exact goes_of_branchIf rfl (iff_true_intro rfl)
  case lbrn => exact goes_of_branchIf rfl (iff_of_false Bool.false_ne_true id)
  case lbcs | lbeq | lbmi | lbvs => exact goes_of_branchIf rfl Iff.rfl
  case lbcc | lbne | lbpl | lbvc => exact goes_of_branchIf_not rfl

/-- Settles O48, by the condition that each branch reads. -/
theorem shortBranchesOnAnOrder : Obligations.ShortBranchesOnAnOrder := fun s _ =>
  ⟨goes_of_branchIf rfl s.condHi_iff, goes_of_branchIf_not rfl,
    goes_of_branchIf rfl Iff.rfl, goes_of_branchIf rfl s.not_condHi_iff,
    goes_of_branchIf rfl s.condGe_iff, goes_of_branchIf rfl s.condGt_iff,
    goes_of_branchIf rfl s.not_condGt_iff, goes_of_branchIf rfl s.not_condGe_iff⟩

/-- Settles O50, by the condition that each branch reads. -/
theorem longBranchesOnAnOrder : Obligations.LongBranchesOnAnOrder := fun s _ =>
  ⟨goes_of_branchIf rfl s.condHi_iff, goes_of_branchIf_not rfl,
    goes_of_branchIf rfl Iff.rfl, goes_of_branchIf rfl s.not_condHi_iff,
    goes_of_branchIf rfl s.condGe_iff, goes_of_branchIf rfl s.condGt_iff,
    goes_of_branchIf rfl s.not_condGt_iff, goes_of_branchIf rfl s.not_condGe_iff⟩

/-! ### Branches after a compare (R302) -/

/-- A branch goes the same way by any other form of its condition. -/
theorem Goes.congr {i : Instr} {len : Nat} {rel : Word} {s : State} {p q : Prop}
    (h : Goes i len rel s p) (hpq : p ↔ q) : Goes i len rel s q := propext hpq ▸ h

/-- C, Z and N xor V tell the order of two numbers: what `order8_of_subFlags` and
`order16_of_subFlags` find after a compare. -/
structure TellsOrder {w : Nat} (a m : BitVec w) (t : State) : Prop where
  carry : t.flagC = true ↔ a.toNat < m.toNat
  zero : t.flagZ = true ↔ a = m
  sign : t.flagN ≠ t.flagV ↔ a.toInt < m.toInt

namespace TellsOrder

variable {w : Nat} {a m : BitVec w} {t : State}

theorem hs_iff (h : TellsOrder a m t) : t.flagC = false ↔ m.toNat ≤ a.toNat := by
  rw [← Bool.not_eq_true, h.carry, Nat.not_lt]

theorem ne_iff (h : TellsOrder a m t) : t.flagZ = false ↔ a ≠ m := by
  rw [← Bool.not_eq_true, h.zero]

theorem ge_iff (h : TellsOrder a m t) : t.flagN = t.flagV ↔ m.toInt ≤ a.toInt := by
  rw [← not_iff_not, ← ne_eq, h.sign, Int.not_le]

theorem ls_iff (h : TellsOrder a m t) :
    t.flagC = true ∨ t.flagZ = true ↔ a.toNat ≤ m.toNat := by
  rw [h.carry, h.zero, ← BitVec.toNat_inj, Nat.le_iff_lt_or_eq]

theorem hi_iff (h : TellsOrder a m t) :
    t.flagC = false ∧ t.flagZ = false ↔ m.toNat < a.toNat := by
  rw [← Nat.not_le, ← h.ls_iff, not_or, Bool.not_eq_true, Bool.not_eq_true]

theorem le_iff (h : TellsOrder a m t) :
    t.flagZ = true ∨ t.flagN ≠ t.flagV ↔ a.toInt ≤ m.toInt := by
  rw [h.zero, h.sign, ← BitVec.toInt_inj, Int.le_iff_eq_or_lt]

theorem gt_iff (h : TellsOrder a m t) :
    t.flagZ = false ∧ t.flagN = t.flagV ↔ m.toInt < a.toInt := by
  rw [← Int.not_le, ← h.le_iff, not_or, Bool.not_eq_true, not_not]

end TellsOrder

theorem cmpa_tellsOrder (s : State) (m : Byte) : Runs (.cmpa (.imm m)) s (TellsOrder s.a m) :=
  (runs_compareByte (read := State.a) (o := .imm m) rfl rfl rfl).imp fun _ ⟨hflags, _, _⟩ =>
    have ⟨hcarry, hzero, hsign⟩ := order8_of_subFlags hflags
    ⟨hcarry, hzero, hsign⟩

theorem cpx_tellsOrder (s : State) (m : Word) : Runs (.cpx (.imm m)) s (TellsOrder s.x m) :=
  (runs_compareWord (read := State.x) (o := .imm m) rfl rfl rfl).imp fun _ ⟨hflags, _, _⟩ =>
    have ⟨hcarry, hzero, hsign⟩ := order16_of_subFlags hflags
    ⟨hcarry, hzero, hsign⟩

/-- Settles O51: the branches go by their flags, and the flags tell the order. -/
theorem branchConditionsReadTheComparedOrder :
    Obligations.BranchConditionsReadTheComparedOrder := by
  constructor
  · refine fun s m rr => (cmpa_tellsOrder s m).imp fun t h => ?_
    obtain ⟨hhi, hhs, hlo, hls, hge, hgt, hle, hlt⟩ := shortBranchesOnAnOrder t rr
    obtain ⟨-, -, -, -, heq, -, hne, -⟩ := shortBranchesOnOneFlag t rr
    exact ⟨hhi.congr h.hi_iff, hhs.congr h.hs_iff, hlo.congr h.carry, hls.congr h.ls_iff,
      hgt.congr h.gt_iff, hge.congr h.ge_iff, hlt.congr h.sign, hle.congr h.le_iff,
      heq.congr h.zero, hne.congr h.ne_iff⟩
  · refine fun s m qr => (cpx_tellsOrder s m).imp fun t h => ?_
    obtain ⟨hhi, hhs, hlo, hls, hge, hgt, hle, hlt⟩ := longBranchesOnAnOrder t qr
    obtain ⟨-, -, -, -, heq, -, hne, -⟩ := longBranchesOnOneFlag t qr
    exact ⟨hhi.congr h.hi_iff, hhs.congr h.hs_iff, hlo.congr h.carry, hls.congr h.ls_iff,
      hgt.congr h.gt_iff, hge.congr h.ge_iff, hlt.congr h.sign, hle.congr h.le_iff,
      heq.congr h.zero, hne.congr h.ne_iff⟩

/-! ### A branch after other work -/

theorem Frame.setPc (s : State) (v : Word) : Frame [] [] s (s.setPc v) :=
  .of_parts (fun p _ hpc => by
    cases p with
    | pc => exact absurd rfl hpc
    | _ => rfl) rfl rfl

/-- An instruction that ends as a branch from the state `u`, which its other work left (R301). -/
theorem runs_branchIf {i : Instr} {taken : Bool} {len : Nat} {rel : Word} {s u : State}
    (hi : exec i s = branchIf taken len rel u) :
    Runs i s fun t => Frame [] [] u t ∧
      t.pc = u.pc + BitVec.ofNat 16 len + (if taken then rel else 0) := by
  refine runs_done hi ?_
  cases taken with
  | false => exact ⟨.advance u len, (BitVec.add_zero _).symm⟩
  | true => exact ⟨(Frame.setPc u _).thenAdvance len, add_right_comm _ _ _⟩

/-! ### Branches on bits (R339 to R341) -/

/-- A value and a mask have no set bit in common. -/
theorem and_eq_zero_iff {w : Nat} (v mm : BitVec w) :
    v &&& mm = 0 ↔ ∀ k < w, mm.getLsbD k = true → v.getLsbD k = false := by
  have hbit : ∀ k, (v &&& mm).getLsbD k = false ↔ (mm.getLsbD k = true → v.getLsbD k = false) := by
    intro k
    rw [BitVec.getLsbD_and]
    cases mm.getLsbD k <;> simp
  refine ⟨fun h k _ => (hbit k).mp (by simp [h]), fun h => BitVec.eq_of_getLsbD_eq fun k hk => ?_⟩
  rw [(hbit k).mpr (h k hk)]
  simp

/-- BRCLR and BRSET: the byte decides, and the operand's base register has changed either way. -/
theorem runs_branchOnByte {i : Instr} {m : Mem} {taken : Byte → Bool} {rr v : Byte} {ea : Word}
    {s s1 : State} {p : Prop} (h : memAddress .noind (s.nextPc (3 + m.length)) m s = .next (ea, s1))
    (hv : HasByte s ea v) (hi : exec i s = branchOnByte m taken rr s) (hp : taken v = true ↔ p) :
    Runs i s fun t => Frame [] [] (Mem.after m s) t ∧
      (p → t.pc = s.pc + BitVec.ofNat 16 (3 + m.length) + rr.signExtend 16) ∧
      (¬ p → Past (3 + m.length) s t) := by
  obtain rfl := memAddress_state h
  have hbyte : readByte ea (Mem.after m s) = .next v :=
    readByte_eq_next.mpr ((hasByte_congr (by simp) (by simp)).mpr hv)
  have hbranch : exec i s = branchIf (taken v) (3 + m.length) (sext16 rr) (Mem.after m s) := by
    simp only [hi, branchOnByte, h, andThen_next, hbyte]
  refine (runs_branchIf hbranch).imp fun t ⟨hframe, hpc⟩ => ⟨hframe, fun hyes => ?_, fun hno => ?_⟩
  · rw [hpc, if_pos (hp.mpr hyes), Mem.after_pc, sext16]
  · rw [Past, hpc, if_neg (mt hp.mp hno), Mem.after_pc, BitVec.ofNat_eq_ofNat, BitVec.add_zero]

/-- Settles O52: BRCLR tests the byte against the mask, BRSET its complement. -/
theorem bitBranchesTestTheMaskedBits : Obligations.BitBranchesTestTheMaskedBits := by
  refine fun m mm rr v ea s s1 h hv =>
    ⟨runs_branchOnByte h hv rfl ?brclr, runs_branchOnByte h hv rfl ?brset⟩
  case brclr => exact beq_iff_eq.trans (and_eq_zero_iff v mm)
  case brset =>
    refine beq_iff_eq.trans ((and_eq_zero_iff (~~~v) mm).trans (forall₂_congr fun k hk => ?_))
    simp [hk]

/-! ### Loop counters (R342) -/

theorem State.d_toNat (s : State) : s.d.toNat = s.counter .d := mkWord_toNat s.a s.b

/-- A sum in `w` bits is the sum of the numbers modulo 2^w. -/
theorem add_ofInt_toNat {w : Nat} (v : BitVec w) (k : Int) :
    ((v + BitVec.ofInt w k).toNat : Int) = (v.toNat + k) % (2 ^ w : Nat) := by
  rw [BitVec.toNat_add, BitVec.toNat_ofInt, Int.natCast_mod, Nat.cast_add,
    Int.toNat_of_nonneg (Int.emod_nonneg k (by positivity)), Int.add_emod_emod]

theorem State.counterIsZero_iff (s : State) (c : Counter) :
    s.counterIsZero c = true ↔ s.counter c = 0 := by
  cases c with
  | d => rw [← State.d_toNat]; exact beq_iff_eq.trans (BitVec.toNat_eq (y := 0))
  | _ => exact beq_iff_eq.trans (BitVec.toNat_eq (y := 0))

/-- The test of a stepped counter is the test of its new value. -/
theorem State.stepCounter_isZero (s : State) (c : Counter) (k : Int) :
    (s.stepCounter c k).1 = (s.stepCounter c k).2.counterIsZero c := by
  cases c with
  | d => simp [State.stepCounter, State.counterIsZero]
  | _ => rfl

theorem State.stepCounter_counter (s : State) (c : Counter) (k : Int) :
    ((s.stepCounter c k).2.counter c : Int) = (s.counter c + k) % (Counter.modulus c : Nat) := by
  cases c with
  | d =>
    rw [← State.d_toNat, ← State.d_toNat]
    exact (congrArg (fun v : Word => (v.toNat : Int)) (s.setD_d _)).trans (add_ofInt_toNat s.d k)
  | _ => exact add_ofInt_toNat _ k

theorem Frame.stepCounter (s : State) (c : Counter) (k : Int) :
    Frame (Counter.parts c) [] s (s.stepCounter c k).2 := by
  cases c with
  | a => exact .write8 s (r := .a) (by decide) _
  | b => exact .write8 s (r := .b) (by decide) _
  | d => exact .write16 s .d _
  | x => exact .write16 s .x _
  | y => exact .write16 s .y _
  | sp => exact .write16 s .sp _

theorem Frame.counter_eq {s t : State} (h : Frame [] [] s t) (c : Counter) :
    t.counter c = s.counter c := by
  have hpart : ∀ p : Part, p ≠ .pc → p.same s t := fun p hp => h.parts p List.not_mem_nil hp
  cases c with
  | a => exact congrArg BitVec.toNat (hpart .a nofun)
  | b => exact congrArg BitVec.toNat (hpart .b nofun)
  | d =>
    have ha : t.a = s.a := hpart .a nofun
    have hb : t.b = s.b := hpart .b nofun
    simp [State.counter, ha, hb]
  | x => exact congrArg BitVec.toNat (hpart .x nofun)
  | y => exact congrArg BitVec.toNat (hpart .y nofun)
  | sp => exact congrArg BitVec.toNat (hpart .sp nofun)

theorem Counter.modulus_pos (c : Counter) : 0 < Counter.modulus c := by cases c <;> decide

theorem State.counter_down (s : State) (c : Counter) : (s.stepCounter c (-1)).2.counter c =
    (s.counter c + Counter.modulus c - 1) % Counter.modulus c := by
  have hpos := Counter.modulus_pos c
  zify [show 1 ≤ s.counter c + Counter.modulus c by omega]
  rw [State.stepCounter_counter, ← Int.add_emod_right]
  congr 1
  omega

theorem State.counter_up (s : State) (c : Counter) :
    (s.stepCounter c 1).2.counter c = (s.counter c + 1) % Counter.modulus c := by
  zify
  exact s.stepCounter_counter c 1

/-! ### Loop primitives (R343 to R348) -/

section

variable {i : Instr} {c : Counter} {k : Int} {n : Nat} {rel : BitVec 9} {s : State}

/-- A loop primitive that steps its counter to `n`. -/
theorem runs_loop {taken : Bool} (hn : (s.stepCounter c k).2.counter c = n)
    (hi : exec i s = branchIf taken 3 (sext16 rel) (s.stepCounter c k).2) :
    Runs i s fun t => t.counter c = n ∧ Frame (Counter.parts c) [] s t ∧
      t.pc = s.pc + 3 + (if taken then rel.signExtend 16 else 0) := by
  refine (runs_branchIf hi).imp fun t ⟨hframe, hpc⟩ => ⟨(hframe.counter_eq c).trans hn, ?_, ?_⟩
  · exact ((Frame.stepCounter s c k).trans hframe).mono (by simp)
  · rwa [State.stepCounter_pc] at hpc

theorem State.stepCounter_iff (hn : (s.stepCounter c k).2.counter c = n) :
    (s.stepCounter c k).1 = true ↔ n = 0 := by
  rw [State.stepCounter_isZero, State.counterIsZero_iff, hn]

/-- DBEQ and IBEQ: taken when the new value is zero. -/
theorem runs_loop_of_zero (hn : (s.stepCounter c k).2.counter c = n)
    (hi : exec i s = branchIf (s.stepCounter c k).1 3 (sext16 rel) (s.stepCounter c k).2) :
    Runs i s fun t => t.counter c = n ∧ Frame (Counter.parts c) [] s t ∧
      t.pc = s.pc + 3 + (if n = 0 then rel.signExtend 16 else 0) := by
  simpa only [State.stepCounter_iff hn] using runs_loop hn hi

/-- DBNE and IBNE: taken when the new value is not zero. -/
theorem runs_loop_of_nonzero (hn : (s.stepCounter c k).2.counter c = n)
    (hi : exec i s = branchIf (!(s.stepCounter c k).1) 3 (sext16 rel) (s.stepCounter c k).2) :
    Runs i s fun t => t.counter c = n ∧ Frame (Counter.parts c) [] s t ∧
      t.pc = s.pc + 3 + (if n = 0 then 0 else rel.signExtend 16) := by
  simpa only [Bool.not_eq_true', ← Bool.not_eq_true, State.stepCounter_iff hn, ite_not] using
    runs_loop hn hi

end

theorem tbeq_tests (c : Counter) (rel : BitVec 9) (s : State) :
    Runs (.tbeq c rel) s fun t => Frame [] [] s t ∧
      t.pc = s.pc + 3 + (if s.counter c = 0 then rel.signExtend 16 else 0) := by
  simpa only [State.counterIsZero_iff, sext16, BitVec.ofNat_eq_ofNat] using
    runs_branchIf (i := .tbeq c rel) (s := s) rfl

theorem tbne_tests (c : Counter) (rel : BitVec 9) (s : State) :
    Runs (.tbne c rel) s fun t => Frame [] [] s t ∧
      t.pc = s.pc + 3 + (if s.counter c = 0 then 0 else rel.signExtend 16) := by
  simpa only [Bool.not_eq_true', ← Bool.not_eq_true, State.counterIsZero_iff, ite_not, sext16,
    BitVec.ofNat_eq_ofNat] using runs_branchIf (i := .tbne c rel) (s := s) rfl

/-- Settles O53, by the shape of each primitive. -/
theorem loopPrimitivesStepAndTestTheCounter : Obligations.LoopPrimitivesStepAndTestTheCounter :=
  fun c rel s =>
    ⟨runs_loop_of_zero (s.counter_down c) rfl, runs_loop_of_nonzero (s.counter_down c) rfl,
      runs_loop_of_zero (s.counter_up c) rfl, runs_loop_of_nonzero (s.counter_up c) rfl,
      tbeq_tests c rel s, tbne_tests c rel s⟩

end Sys2Proof.Machine
end

section
/-! PROOFS. Logic and bit instructions (spec R350 to R364).

An operation on bytes works bit by bit: `Bitwise8` names the operation on bits it follows. A logic
instruction writes its result to an accumulator, a bit test to none, and BSET and BCLR to the byte
they have read; each of these three shapes has one lemma. -/

namespace Sys2Proof.Machine

/-! ### Operations bit by bit -/

/-- The operation on bytes does `bit` in each of the eight places. -/
def Bitwise8 (op : Byte → Byte → Byte) (bit : Bool → Bool → Bool) : Prop :=
  ∀ (v m : Byte), ∀ k < 8, (op v m).getLsbD k = bit (v.getLsbD k) (m.getLsbD k)

theorem bitwise8_and : Bitwise8 (· &&& ·) (· && ·) := fun _ _ _ _ => BitVec.getLsbD_and

theorem bitwise8_or : Bitwise8 (· ||| ·) (· || ·) := fun _ _ _ _ => BitVec.getLsbD_or

theorem bitwise8_xor : Bitwise8 (· ^^^ ·) (· != ·) := fun _ _ _ _ => BitVec.getLsbD_xor

/-- Where the mask has a bit, BSET sets it (R364). -/
theorem bitwise8_set : Bitwise8 (· ||| ·) (fun v m => if m then true else v) := fun v mm k hk => by
  rw [bitwise8_or v mm k hk]
  cases mm.getLsbD k <;> simp

/-- Where the mask has a bit, BCLR clears it (R361). -/
theorem bitwise8_clear : Bitwise8 (fun v m => v &&& ~~~m) (fun v m => if m then false else v) :=
  fun v mm k hk => by
    rw [bitwise8_and v (~~~mm) k hk, BitVec.getLsbD_not]
    cases mm.getLsbD k <;> simp [hk]

theorem nzv0_says (v : Byte) : (nzv0 v).Says fun t => NZ v t ∧ t.flagV = false :=
  fun s len => ⟨nz_nzv0 v s len, flagV_nzv0 v s len⟩

/-! ### Runs of each shape -/

/-- A logic operation on an accumulator and the operand (R350 to R357). -/
theorem runs_logic {i : Instr} {r : Reg8} (hr : r ≠ .ccr) {op : Byte → Byte → Byte}
    {bit : Bool → Bool → Bool} (hop : Bitwise8 op bit) {o : Opr 8} {m : Byte} {s s1 : State}
    (h : operand8 (s.nextPc (1 + o.length)) o s = .next (m, s1))
    (hi : exec i s = withOperand8 o s fun m s1 =>
      (s1.write8 r (op (s1.read8 r) m)).setFlags (nzv0 (op (s1.read8 r) m))) :
    Runs i s fun t => (∀ k < 8, (t.read8 r).getLsbD k = bit ((s.read8 r).getLsbD k) (m.getLsbD k)) ∧
      NZ (t.read8 r) t ∧ t.flagV = false ∧ Past (1 + o.length) s t ∧
      Frame (Reg8.parts r ++ nzvParts) [] (Opr.after o s) t := by
  refine runs_withOperand8 h hi ?_
  rw [State.read8_after, State.read8_of_write8 _ hr]
  exact ⟨hop (s.read8 r) m, nz_nzv0 _ _ _, flagV_nzv0 _ _ _, by simp [Past],
    (Frame.write8 _ hr _).nzvAndAdvance _ _⟩

/-- A bit test of an accumulator writes the flags of the bitwise AND alone (R362, R363). -/
theorem runs_bitTest {i : Instr} {r : Reg8} {o : Opr 8} {m : Byte} {s s1 : State}
    (h : operand8 (s.nextPc (1 + o.length)) o s = .next (m, s1))
    (hi : exec i s = withOperand8 o s fun m s1 => s1.setFlags (nzv0 (s1.read8 r &&& m))) :
    Runs i s fun t => NZ (s.read8 r &&& m) t ∧ t.flagV = false ∧ Past (1 + o.length) s t ∧
      Frame nzvParts [] (Opr.after o s) t := by
  refine runs_withOperand8 h hi ?_
  rw [State.read8_after]
  exact ⟨nz_nzv0 _ _ _, flagV_nzv0 _ _ _, by simp [Past], (Frame.refl _).nzvAndAdvance _ _⟩

/-- BSET and BCLR: the result goes back to the byte that was read (R360). -/
theorem runs_bitModify {i : Instr} {op : Byte → Byte → Byte} {bit : Bool → Bool → Bool}
    (hop : Bitwise8 op bit) {m : Mem} {mm v : Byte} {ea : Word} {s s1 : State}
    (h : memAddress .noind (s.nextPc (2 + m.length)) m s = .next (ea, s1))
    (hv : HasByte s ea v) (hc : CanStore s ea)
    (hi : exec i s =
      modifyByte .noind m (2 + m.length) (fun _ v => (op v mm, nzv0 (op v mm))) s) :
    Runs i s fun t => Past (2 + m.length) s t ∧ Frame nzvParts [ea] (Mem.after m s) t ∧
      t.flagV = false ∧ ∃ r, HasByte t ea r ∧ NZ r t ∧
        ∀ k < 8, r.getLsbD k = bit (v.getLsbD k) (mm.getLsbD k) := by
  refine runs_modifyByte h hv hc hi ?_
  obtain ⟨hbyte, ⟨hnz, hV⟩, hpast, hframe⟩ := stored_byte hc (nzv0_says (op v mm)) rfl
  exact ⟨hpast, hframe, hV, op v mm, hbyte, hnz, hop v mm⟩

/-! ### The statements -/

/-- Settles O54: each operation is `runs_logic` at its accumulator, each test `runs_bitTest`. -/
theorem logicOnAccumulatorsClearsOverflow : Obligations.LogicOnAccumulatorsClearsOverflow := by
  refine fun o m s s1 h => ⟨?_, ?_, ?_, ?_, ?_, ?_, ?_, ?_⟩
  · exact runs_logic (r := .a) (by decide) bitwise8_and h rfl
  · exact runs_logic (r := .b) (by decide) bitwise8_and h rfl
  · exact runs_logic (r := .a) (by decide) bitwise8_or h rfl
  · exact runs_logic (r := .b) (by decide) bitwise8_or h rfl
  · exact runs_logic (r := .a) (by decide) bitwise8_xor h rfl
  · exact runs_logic (r := .b) (by decide) bitwise8_xor h rfl
  · exact runs_bitTest (r := .a) h rfl
  · exact runs_bitTest (r := .b) h rfl

/-- Settles O55: BSET and BCLR are `runs_bitModify` at the operations on bits they do. -/
theorem bitSetAndBitClearWriteTheMask : Obligations.BitSetAndBitClearWriteTheMask :=
  fun _ _ _ _ _ _ h hv hc =>
    ⟨runs_bitModify bitwise8_set h hv hc rfl, runs_bitModify bitwise8_clear h hv hc rfl⟩

end Sys2Proof.Machine
end

section
/-! PROOFS. Shifts and rotates (spec R370 to R393).

A shift is known by the bit that leaves, which fixes its flags, and by the arithmetic of its result:
`MovesBits` says both of an operation. `runs_moveBits8`, `runs_moveBitsD` and `runs_moveBitsMem` say what
such an operation does in an accumulator, in D and in a byte of memory. -/

namespace Sys2Proof.Machine

/-! ### The operations (R370, R387) -/

/-- The operation `f` shifts the bit `out m` out of `m` and sets the flags of R370; `q` relates the old
carry, the new carry, the operand and the result. -/
structure MovesBits {w : Nat} (f : Bool → BitVec w → BitVec w × FlagUpdate) (out : BitVec w → Bool)
    (q : Bool → Bool → BitVec w → BitVec w → Prop) : Prop where
  flags : ∀ c m, (f c m).2 = shiftFlags (f c m).1 (out m)
  result : ∀ c m, q c (out m) m (f c m).1

/-- The top bit is bit 7, as a number. -/
theorem msb_toNat (m : Byte) : m.msb.toNat = m.toNat / 128 := by
  have hm := m.isLt
  rw [BitVec.msb_eq_getLsbD_last, BitVec.getLsbD, Nat.toNat_testBit]
  omega

theorem getLsbD_zero_toNat {w : Nat} (m : BitVec w) : (m.getLsbD 0).toNat = m.toNat % 2 := by
  rw [BitVec.getLsbD, Nat.toNat_testBit, pow_zero, Nat.div_one]

/-- Bits placed above `w` others count 2^w times. -/
theorem append_toNat {v w : Nat} (hi : BitVec v) (lo : BitVec w) :
    (hi ++ lo).toNat = hi.toNat * 2 ^ w + lo.toNat := by
  rw [BitVec.toNat_append, ← Nat.shiftLeft_add_eq_or_of_lt lo.isLt, Nat.shiftLeft_eq]

/-- LSL and ASL double (R372, R380). -/
theorem shlOp_doubles {w : Nat} : MovesBits (w := w) shlOp BitVec.msb
    fun _ _ m r => r.toNat = 2 * m.toNat % 2 ^ w where
  flags _ _ := rfl
  result _ m := by rw [shlOp, BitVec.toNat_shiftLeft, Nat.shiftLeft_eq, pow_one, mul_comm]

/-- LSR halves the unsigned number (R376). -/
theorem lsrOp_halves {w : Nat} : MovesBits (w := w) lsrOp (·.getLsbD 0)
    fun _ _ m r => r.toNat = m.toNat / 2 where
  flags _ _ := rfl
  result _ m := by rw [lsrOp, BitVec.toNat_ushiftRight, Nat.shiftRight_eq_div_pow, pow_one]

/-- ASR halves the signed number and rounds down (R384). -/
theorem asrOp_halves : MovesBits asrOp (·.getLsbD 0) fun _ _ m r => r.toInt = m.toInt / 2 where
  flags _ _ := rfl
  result _ m := by rw [asrOp, BitVec.toInt_sshiftRight, Int.shiftRight_eq_div_pow]; rfl

/-- ROL: the new carry stands above the byte, the old one enters below it (R388). -/
theorem rolOp_rotates : MovesBits rolOp BitVec.msb
    fun c out m r => r.toNat + 256 * out.toNat = 2 * m.toNat + c.toNat where
  flags _ _ := rfl
  result c m := by
    rw [msb_toNat, rolOp, append_toNat, BitVec.extractLsb'_toNat, BitVec.toNat_ofBool]
    omega

/-- ROR: the old carry stands above the byte, the new one leaves below it (R391). -/
theorem rorOp_rotates : MovesBits rorOp (·.getLsbD 0)
    fun c out m r => 2 * r.toNat + out.toNat = m.toNat + 256 * c.toNat where
  flags _ _ := rfl
  result c m := by
    have hm := m.isLt
    rw [getLsbD_zero_toNat, rorOp, append_toNat, BitVec.extractLsb'_toNat, BitVec.toNat_ofBool,
      Nat.shiftRight_eq_div_pow]
    omega

theorem shiftFlags_says {w : Nat} (r : BitVec w) (out : Bool) :
    (shiftFlags r out).Says (ShiftFlags r out) :=
  fun _ _ => ⟨nz_of (by simp [shiftFlags]) (by simp [shiftFlags]), by simp [shiftFlags],
    by simp [shiftFlags]⟩

/-! ### Runs of each shape -/

section

variable {w : Nat} {f : Bool → BitVec w → BitVec w × FlagUpdate} {out : BitVec w → Bool}
  {q : Bool → Bool → BitVec w → BitVec w → Prop}

/-- C is the bit that left, so the arithmetic holds of the C that the instruction leaves. -/
theorem MovesBits.says (hf : MovesBits f out q) (c : Bool) (m : BitVec w) :
    (f c m).2.Says fun t => q c t.flagC m (f c m).1 ∧ ShiftFlags (f c m).1 (out m) t := by
  rw [hf.flags]
  intro s len
  obtain ⟨hnz, hcarry, hover⟩ := shiftFlags_says (f c m).1 (out m) s len
  refine ⟨?_, hnz, hcarry, hover⟩
  rw [hcarry]
  exact hf.result c m

theorem MovesBits.parts (hf : MovesBits f out q) (c : Bool) (m : BitVec w) :
    (f c m).2.parts = nzvcParts := by
  rw [hf.flags]
  rfl

end

/-- A shift or rotate of an accumulator. -/
theorem runs_moveBits8 {f : Bool → Byte → Byte × FlagUpdate} {out : Byte → Bool}
    {q : Bool → Bool → Byte → Byte → Prop} (hf : MovesBits f out q) {i : Instr} {r : Reg8}
    (hr : r ≠ .ccr) {s : State} (hi : exec i s = Res.done 1
      ((s.write8 r (f s.flagC (s.read8 r)).1).setFlags (f s.flagC (s.read8 r)).2)) :
    Runs i s fun t => q s.flagC t.flagC (s.read8 r) (t.read8 r) ∧
      ShiftFlags (t.read8 r) (out (s.read8 r)) t ∧ Past 1 s t ∧
      Frame (Reg8.parts r ++ nzvcParts) [] s t := by
  refine (runs_accumulatorOp hr hi (hf.says _ _)).imp
    fun t ⟨hreg, ⟨hresult, hflags⟩, hpast, hframe⟩ => ?_
  rw [hf.parts] at hframe
  rw [hreg]
  exact ⟨hresult, hflags, hpast, hframe⟩

/-- A shift of D. -/
theorem runs_moveBitsD {f : Bool → Word → Word × FlagUpdate} {out : Word → Bool}
    {q : Bool → Bool → Word → Word → Prop} (hf : MovesBits f out q) {i : Instr} {s : State}
    (hi : exec i s = modifyD f s) :
    Runs i s fun t => q s.flagC t.flagC s.d t.d ∧ ShiftFlags t.d (out s.d) t ∧ Past 1 s t ∧
      Frame (.a :: .b :: nzvcParts) [] s t := by
  obtain ⟨hresult, hflags⟩ := hf.says s.flagC s.d (s.setD (f s.flagC s.d).1) 1
  have hframe := (Frame.setD s (f s.flagC s.d).1).flagsAndAdvance (f s.flagC s.d).2 1
  rw [hf.parts] at hframe
  refine runs_done hi ?_
  rw [State.advance_d, State.setFlags_d, State.setD_d]
  exact ⟨hresult, hflags, by simp [Past], hframe⟩

/-- A shift or rotate of a byte of memory. -/
theorem runs_moveBitsMem {f : Bool → Byte → Byte × FlagUpdate} {out : Byte → Bool}
    {q : Bool → Bool → Byte → Byte → Prop} (hf : MovesBits f out q) {i : Instr} {m : MemX}
    {ea : Word} {v : Byte} {s s1 : State}
    (h : memAddress .all (s.nextPc (1 + m.toMem.length)) m.toMem s = .next (ea, s1))
    (hv : HasByte s ea v) (hc : CanStore s ea) (hi : exec i s = modifyMem m f s) :
    Runs i s fun t => ∃ r, HasByte t ea r ∧ q s.flagC t.flagC v r ∧ ShiftFlags r (out v) t ∧
      Past (1 + m.toMem.length) s t ∧ Frame nzvcParts [ea] (Mem.after m.toMem s) t := by
  refine (runs_memoryOp h hv hc hi (hf.says _ v)).imp
    fun t ⟨hbyte, ⟨hresult, hflags⟩, hpast, hframe⟩ => ?_
  rw [hf.parts] at hframe
  exact ⟨_, hbyte, hresult, hflags, hpast, hframe⟩

/-! ### The statements -/

/-- A holds the upper bits of D, B the lower ones (R22). -/
theorem State.d_msb (s : State) : s.d.msb = s.a.msb := by
  rw [State.d, mkWord, BitVec.msb_append, if_neg (by decide)]

theorem State.d_getLsbD_zero (s : State) : s.d.getLsbD 0 = s.b.getLsbD 0 := by
  rw [State.d, mkWord, BitVec.getLsbD_append]
  rfl

/-- For the two names of a left shift, which run alike. -/
theorem exec_eq_of_mem_pair {i j k : Instr} {s : State} (hk : k ∈ [i, j])
    (hij : exec j s = exec i s) : exec k s = exec i s := by
  rcases List.mem_cons.mp hk with rfl | hk
  · rfl
  · rwa [List.mem_singleton.mp hk]

/-- Settles O56: both names of each left shift run `shlOp`. -/
theorem leftShiftsDoubleTheOperand : Obligations.LeftShiftsDoubleTheOperand := by
  refine ⟨fun s => ⟨fun i hi => ?_, fun i hi => ?_, fun i hi => ?_⟩,
    fun m ea v s s1 h hv hc i hi => ?_⟩
  · exact runs_moveBits8 shlOp_doubles (r := .a) (by decide) (exec_eq_of_mem_pair hi rfl)
  · exact runs_moveBits8 shlOp_doubles (r := .b) (by decide) (exec_eq_of_mem_pair hi rfl)
  · rw [← State.d_msb]
    exact runs_moveBitsD shlOp_doubles (exec_eq_of_mem_pair hi rfl)
  · exact runs_moveBitsMem shlOp_doubles h hv hc (exec_eq_of_mem_pair hi rfl)

/-- Settles O57, by the halving that each right shift does. -/
theorem rightShiftsHalveTheOperand : Obligations.RightShiftsHalveTheOperand := by
  refine ⟨fun s => ⟨?_, ?_, ?_, ?_, ?_⟩, fun m ea v s s1 h hv hc => ⟨?_, ?_⟩⟩
  · exact runs_moveBits8 lsrOp_halves (r := .a) (by decide) rfl
  · exact runs_moveBits8 lsrOp_halves (r := .b) (by decide) rfl
  · rw [← State.d_getLsbD_zero]
    exact runs_moveBitsD lsrOp_halves rfl
  · exact runs_moveBits8 asrOp_halves (r := .a) (by decide) rfl
  · exact runs_moveBits8 asrOp_halves (r := .b) (by decide) rfl
  · exact runs_moveBitsMem lsrOp_halves h hv hc rfl
  · exact runs_moveBitsMem asrOp_halves h hv hc rfl

/-- Settles O58, by the rotation of nine bits that ROL and ROR do. -/
theorem rotatesTurnTheByteWithCarry : Obligations.RotatesTurnTheByteWithCarry := by
  refine ⟨fun s => ⟨?_, ?_, ?_, ?_⟩, fun m ea v s s1 h hv hc => ⟨?_, ?_⟩⟩
  · exact runs_moveBits8 rolOp_rotates (r := .a) (by decide) rfl
  · exact runs_moveBits8 rolOp_rotates (r := .b) (by decide) rfl
  · exact runs_moveBits8 rorOp_rotates (r := .a) (by decide) rfl
  · exact runs_moveBits8 rorOp_rotates (r := .b) (by decide) rfl
  · exact runs_moveBitsMem rolOp_rotates h hv hc rfl
  · exact runs_moveBitsMem rorOp_rotates h hv hc rfl

end Sys2Proof.Machine
end

section
/-! PROOFS. Exceptions: which one is taken, the entry and the return (spec R401 to R407).

The entry pushes nine bytes. `Pushed` says what a list of pushed bytes leaves, and `Pushed.append` that
pushes in a row are one push of all their bytes, so that no two of the nine have to be compared. -/

namespace Sys2Proof.Machine

/-! ### The exception taken (R404) -/

/-- None is taken only where the masks let none through. -/
theorem enabled_eq_false_of_firstException {promoted : Option (Fin 57)}
    {pending : List ExceptionSource} {s : State} (h : firstException promoted pending s = none) :
    ∀ f ∈ pending, f.enabled s = false := by
  induction pending with
  | nil => exact fun f hf => absurd hf List.not_mem_nil
  | cons e rest ih =>
    unfold firstException at h
    split at h
    next hrest =>
      have he : e.enabled s = false := by simpa using h
      exact List.forall_mem_cons.mpr ⟨he, ih hrest⟩
    next => split at h <;> cases h

/-- The one taken is pending, let through, and of the highest priority among those let through. -/
theorem firstException_eq_some {promoted : Option (Fin 57)} {pending : List ExceptionSource}
    {s : State} {e : ExceptionSource} (h : firstException promoted pending s = some e) :
    e ∈ pending ∧ e.enabled s = true ∧
      ∀ f ∈ pending, f.enabled s = true → e.rank promoted ≤ f.rank promoted := by
  induction pending generalizing e with
  | nil => cases h
  | cons d rest ih =>
    unfold firstException at h
    split at h
    next hrest =>
      obtain ⟨hd, rfl⟩ : d.enabled s = true ∧ d = e := by simpa using h
      have hnone := enabled_eq_false_of_firstException hrest
      exact ⟨List.mem_cons_self, hd, List.forall_mem_cons.mpr
        ⟨fun _ => le_rfl, fun f hf hen => absurd hen (by simp [hnone f hf])⟩⟩
    next g hrest =>
      obtain ⟨hmem, hen, hmin⟩ := ih hrest
      split at h
      next hd =>
        obtain rfl : d = e := by simpa using h
        obtain ⟨hden, hle⟩ : d.enabled s = true ∧ d.rank promoted ≤ g.rank promoted := by
          simpa using hd
        exact ⟨List.mem_cons_self, hden, List.forall_mem_cons.mpr
          ⟨fun _ => le_rfl, fun f hf hfen => hle.trans (hmin f hf hfen)⟩⟩
      next hd =>
        obtain rfl : g = e := by simpa using h
        have hgd : d.enabled s = true → g.rank promoted ≤ d.rank promoted := fun hden => by
          simp only [hden, Bool.true_and, decide_eq_true_eq, not_le] at hd
          exact hd.le
        exact ⟨List.mem_cons_of_mem _ hmem, hen, List.forall_mem_cons.mpr ⟨hgd, hmin⟩⟩

/-! ### The addresses below a stack pointer -/

/-- The `n` addresses below an address, from the top down (R52). -/
def below (a : Word) (n : Nat) : List Word :=
  (List.range n).map fun k => a - BitVec.ofNat 16 (k + 1)

theorem mem_below {a b : Word} {n : Nat} :
    b ∈ below a n ↔ ∃ k < n, a - BitVec.ofNat 16 (k + 1) = b := by
  simp [below]

theorem sub_ofNat_sub_ofNat (a : Word) (m n : Nat) :
    a - BitVec.ofNat 16 m - BitVec.ofNat 16 n = a - BitVec.ofNat 16 (m + n) := by
  rw [BitVec.ofNat_add, sub_sub]

/-- Going on below the first `m` addresses. -/
theorem below_add (a : Word) (m n : Nat) :
    below a (m + n) = below a m ++ below (a - BitVec.ofNat 16 m) n := by
  simp [below, List.range_add, sub_ofNat_sub_ofNat, Nat.add_assoc]

/-- Within one turn around the address space, no address is met again (R52). -/
theorem sub_ofNat_not_mem_below {a : Word} {k m n : Nat} (hk : k < m) (hn : m + n ≤ 65536) :
    a - BitVec.ofNat 16 (k + 1) ∉ below (a - BitVec.ofNat 16 m) n := by
  rw [mem_below]
  rintro ⟨j, hj, h⟩
  rw [sub_ofNat_sub_ofNat, sub_right_inj] at h
  have hnat := congrArg BitVec.toNat h
  simp only [BitVec.toNat_ofNat] at hnat
  omega

/-! ### Bytes that other stores leave -/

theorem HasByte.of_sameMemOutside {l : List Word} {s t : State} {a : Word} {v : Byte}
    (h : HasByte s a v) (hst : SameMemOutside l s t) (ha : a ∉ l) : HasByte t a v :=
  readByte_eq_next.mp ((hst a ha).trans (readByte_eq_next.mpr h))

theorem HasWord.of_sameMemOutside {l : List Word} {s t : State} {a w : Word}
    (h : HasWord s a w) (hst : SameMemOutside l s t) (ha : a ∉ l) (hb : a + 1 ∉ l) :
    HasWord t a w :=
  ⟨HasByte.of_sameMemOutside h.1 hst ha, HasByte.of_sameMemOutside h.2 hst hb⟩

/-! ### Pushes in a row (R25, R168) -/

/-- From `s` to `t` the bytes were pushed, the first one at the top; nothing but SP and these bytes
changed. -/
structure Pushed (bs : List Byte) (s t : State) : Prop where
  registers : ∃ m, t = (s.setSp (s.sp - BitVec.ofNat 16 bs.length)).setMem m
  holds : ∀ k v, bs[k]? = some v → HasByte t (s.sp - BitVec.ofNat 16 (k + 1)) v
  others : SameMemOutside (below s.sp bs.length) s t

theorem Pushed.sp {bs : List Byte} {s t : State} (h : Pushed bs s t) :
    t.sp = s.sp - BitVec.ofNat 16 bs.length := by
  obtain ⟨m, rfl⟩ := h.registers
  rfl

theorem Pushed.launch {bs : List Byte} {s t : State} (h : Pushed bs s t) : t.launch = s.launch := by
  obtain ⟨m, rfl⟩ := h.registers
  rfl

/-- A word that was pushed, its more significant byte below the other. -/
theorem Pushed.hasWord {bs : List Byte} {s t : State} (h : Pushed bs s t) {k : Nat} {w : Word}
    (hlo : bs[k]? = some (loByte w)) (hhi : bs[k + 1]? = some (hiByte w)) :
    HasWord t (s.sp - BitVec.ofNat 16 (k + 2)) w := by
  refine ⟨h.holds _ _ hhi, ?_⟩
  have hnext : s.sp - BitVec.ofNat 16 (k + 2) + 1 = s.sp - BitVec.ofNat 16 (k + 1) := by
    rw [← sub_ofNat_sub_ofNat s.sp (k + 1) 1]
    exact sub_add_cancel _ _
  exact hnext ▸ h.holds _ _ hlo

/-- Two pushes in a row are one, while they do not go around the address space. -/
theorem Pushed.append {bs cs : List Byte} {s t u : State} (h : Pushed bs s t) (k : Pushed cs t u)
    (hn : bs.length + cs.length ≤ 65536) : Pushed (bs ++ cs) s u where
  registers := by
    obtain ⟨m, rfl⟩ := h.registers
    obtain ⟨m', rfl⟩ := k.registers
    refine ⟨m', ?_⟩
    rw [List.length_append, ← sub_ofNat_sub_ofNat]
    rfl
  holds j v hv := by
    rcases Nat.lt_or_ge j bs.length with hj | hj
    · rw [List.getElem?_append_left hj] at hv
      refine (h.holds j v hv).of_sameMemOutside k.others ?_
      rw [h.sp]
      exact sub_ofNat_not_mem_below hj hn
    · rw [List.getElem?_append_right hj] at hv
      have hbyte := k.holds _ v hv
      rwa [h.sp, sub_ofNat_sub_ofNat,
        show bs.length + (j - bs.length + 1) = j + 1 by omega] at hbyte
  others a ha := by
    rw [List.length_append, below_add, List.mem_append, not_or, ← h.sp] at ha
    exact (k.others a ha.2).trans (h.others a ha.1)

theorem Pushed.of_pushByte {v : Byte} {s t : State} (h : pushByte v s = .next t) :
    Pushed [v] s t := by
  obtain ⟨hc, rfl⟩ := pushByte_eq_next.mp h
  refine ⟨⟨_, rfl⟩, fun k u hu => ?_, sameMem_of_memSet rfl rfl⟩
  obtain ⟨rfl, rfl⟩ : k = 0 ∧ v = u := by simpa using List.getElem?_eq_some_iff.mp hu
  exact hasByte_of_memSet hc rfl rfl

theorem Pushed.of_pushWord {w : Word} {s t : State} (h : pushWord w s = .next t) :
    Pushed [loByte w, hiByte w] s t := by
  have hlow : s.sp - 2 + 1 = s.sp - 1 := by bv_omega
  have ⟨hhi, hlo⟩ : HasWord t (s.sp - 2) w := hasWord_of_writeWord h
  have hsame : SameMemOutside [s.sp - 2, s.sp - 2 + 1] s t :=
    sameMemOutside_of_writeWord (s := s.setSp (s.sp - 2)) h
  obtain ⟨_, ht⟩ := pushWord_eq_next.mp h
  rw [hlow] at hlo hsame
  refine ⟨⟨_, ht⟩, fun k u hu => ?_, fun a ha => hsame a fun hmem => ha ?_⟩
  · match k with
    | 0 =>
      cases hu
      exact hlo
    | 1 =>
      cases hu
      exact hhi
  · exact (List.Perm.swap _ _ _).subset hmem

/-! ### Room for pushes -/

/-- The `n` bytes below SP can be stored. -/
def CanPush (n : Nat) (s : State) : Prop :=
  ∀ k : Nat, 1 ≤ k → k ≤ n → CanStore s (s.sp - BitVec.ofNat 16 k)

/-- A push leaves the room that it does not take. -/
theorem CanPush.of_pushed {n : Nat} {bs : List Byte} {s t : State} (h : CanPush (bs.length + n) s)
    (hp : Pushed bs s t) : CanPush n t := fun k h1 hk => by
  rw [canStore_congr hp.launch, hp.sp, sub_ofNat_sub_ofNat]
  exact h _ (by omega) (by omega)

theorem exists_pushByte {s : State} (h : CanPush 1 s) (v : Byte) : ∃ t, pushByte v s = .next t :=
  ⟨_, pushByte_eq_next.mpr ⟨h 1 le_rfl le_rfl, rfl⟩⟩

theorem exists_pushWord {n : Nat} {s : State} (h : CanPush (2 + n) s) (w : Word) :
    ∃ t, pushWord w s = .next t ∧ CanPush n t := by
  have hlow : s.sp - 2 + 1 = s.sp - 1 := by bv_omega
  have hroom : CanStoreWord s (s.sp - 2) :=
    ⟨h 2 (by omega) (by omega), hlow ▸ h 1 (by omega) (by omega)⟩
  have hpush := pushWord_eq_next (w := w) |>.mpr ⟨hroom, rfl⟩
  exact ⟨_, hpush, h.of_pushed (.of_pushWord hpush)⟩

/-! ### The entry (R406) -/

/-- The nine bytes of an entry, from the top down. -/
def entryBytes (returnTo : Word) (s : State) : List Byte :=
  [loByte returnTo, hiByte returnTo, loByte s.y, hiByte s.y, loByte s.x, hiByte s.x, s.a, s.b, s.ccr]

/-- The five pushes of an entry are one push of its nine bytes. -/
theorem Pushed.of_stackRegisters {returnTo : Word} {s t : State}
    (h : stackRegisters returnTo s = .next t) : Pushed (entryBytes returnTo s) s t := by
  obtain ⟨s1, s2, s3, s4, h1, h2, h3, h4, h5⟩ := stackRegisters_eq_next.mp h
  have hall := ((((Pushed.of_pushWord h1).append (.of_pushWord h2) (by simp)).append
    (.of_pushWord h3) (by simp)).append (.of_pushWord h4) (by simp)).append (.of_pushByte h5)
    (by simp)
  obtain ⟨_, rfl⟩ := (Pushed.of_pushWord h1).registers
  obtain ⟨_, rfl⟩ := (Pushed.of_pushWord h2).registers
  obtain ⟨_, rfl⟩ := (Pushed.of_pushWord h3).registers
  obtain ⟨_, rfl⟩ := (Pushed.of_pushWord h4).registers
  simpa [entryBytes] using hall

theorem exists_stackRegisters {s : State} (h : CanPush 9 s) (returnTo : Word) :
    ∃ t, stackRegisters returnTo s = .next t := by
  obtain ⟨s1, h1, room1⟩ := exists_pushWord (n := 7) h returnTo
  obtain ⟨s2, h2, room2⟩ := exists_pushWord (n := 5) room1 s1.y
  obtain ⟨s3, h3, room3⟩ := exists_pushWord (n := 3) room2 s2.x
  obtain ⟨s4, h4, room4⟩ := exists_pushWord (n := 1) room3 (mkWord s3.b s3.a)
  obtain ⟨t, h5⟩ := exists_pushByte room4 s4.ccr
  exact ⟨t, stackRegisters_eq_next.mpr ⟨s1, s2, s3, s4, h1, h2, h3, h4, h5⟩⟩

/-- Where the registers stand after an entry. -/
theorem Pushed.registers_stacked {returnTo : Word} {s t : State}
    (h : Pushed (entryBytes returnTo s) s t) :
    HasWord t (s.sp - 2) returnTo ∧ HasWord t (s.sp - 4) s.y ∧ HasWord t (s.sp - 6) s.x ∧
      HasByte t (s.sp - 7) s.a ∧ HasByte t (s.sp - 8) s.b ∧ HasByte t (s.sp - 9) s.ccr :=
  ⟨h.hasWord (k := 0) rfl rfl, h.hasWord (k := 2) rfl rfl, h.hasWord (k := 4) rfl rfl,
    h.holds 6 _ rfl, h.holds 7 _ rfl, h.holds 8 _ rfl⟩

/-- What an entry makes of CCR: I is set, and X for XIRQ. -/
def entryCcr (e : ExceptionSource) (v : Byte) : Byte :=
  v ||| (if e = .xirq then 0b01010000#8 else 0b00010000#8)

theorem entryCcr_flagI (e : ExceptionSource) (v : Byte) : (entryCcr e v).getLsbD 4 = true := by
  unfold entryCcr
  split <;> simp

theorem entryCcr_flagX (e : ExceptionSource) (v : Byte) :
    (entryCcr e v).getLsbD 6 = (v.getLsbD 6 || decide (e = .xirq)) := by
  unfold entryCcr
  split <;> simp [*]

theorem entryCcr_others (e : ExceptionSource) (v : Byte) :
    (entryCcr e v).getLsbD 7 = v.getLsbD 7 ∧ (entryCcr e v).getLsbD 5 = v.getLsbD 5 ∧
      (entryCcr e v).getLsbD 3 = v.getLsbD 3 ∧ (entryCcr e v).getLsbD 2 = v.getLsbD 2 ∧
      (entryCcr e v).getLsbD 1 = v.getLsbD 1 ∧ (entryCcr e v).getLsbD 0 = v.getLsbD 0 := by
  unfold entryCcr
  split <;> simp

/-- An entry is the push of its nine bytes, then the write of CCR and the jump to the vector. -/
theorem pushed_of_takeException {e : ExceptionSource} {returnTo : Word} {s t : State}
    (h : takeException e returnTo s = .next t) :
    ∃ s1 target, Pushed (entryBytes returnTo s) s s1 ∧
      t = (s1.setCcr (entryCcr e s1.ccr)).setPc target := by
  obtain ⟨s1, target, hstack, -, ht⟩ := takeException_eq_next.mp h
  exact ⟨s1, target, .of_stackRegisters hstack, ht⟩

/-- A push changes SP and the bytes below it. -/
theorem Frame.pushed {bs : List Byte} {s t : State} (h : Pushed bs s t) :
    Frame [.sp] (below s.sp bs.length) s t := by
  have hmem := h.others
  obtain ⟨m, rfl⟩ := h.registers
  exact ⟨fun p hp _ => by cases p <;> simp_all [Part.same], hmem, rfl⟩

theorem Frame.setEntryCcr (e : ExceptionSource) (s : State) (target : Word) :
    Frame [.flagI, .flagX] [] s ((s.setCcr (entryCcr e s.ccr)).setPc target) := by
  obtain ⟨hS, hH, hN, hZ, hV, hC⟩ := entryCcr_others e s.ccr
  refine .of_parts (fun p hp hpc => ?_) rfl rfl
  cases p with
  | flagS => exact hS
  | flagH => exact hH
  | flagN => exact hN
  | flagZ => exact hZ
  | flagV => exact hV
  | flagC => exact hC
  | flagX | flagI | pc => simp at hp hpc
  | a | b | x | y | sp | draws => rfl

/-- Settles O59: the choice by induction on the pending sources, the entry by the push of its nine
bytes, none of which is a byte of the vector. -/
theorem exceptionEntryStacksTheRegisters : Obligations.ExceptionEntryStacksTheRegisters := by
  refine ⟨fun promoted pending s => ?_, fun e returnTo target s _ hroom hvec hword => ?_⟩
  · split
    next h => exact firstException_eq_some h
    next h => exact enabled_eq_false_of_firstException h
  · obtain ⟨s1, hstack⟩ := exists_stackRegisters hroom returnTo
    have hp : Pushed (entryBytes returnTo s) s s1 := .of_stackRegisters hstack
    have hvector : ∀ a, (∀ k : Nat, 1 ≤ k → k ≤ 9 → s.sp - BitVec.ofNat 16 k ≠ a) →
        a ∉ below s.sp 9 := fun a ha hmem => by
      obtain ⟨k, hk, h⟩ := mem_below.mp hmem
      exact ha (k + 1) (by omega) hk h
    have hword1 : HasWord s1 e.vector target := hword.of_sameMemOutside hp.others
      (hvector _ fun k h1 h9 => (hvec k h1 h9).1) (hvector _ fun k h1 h9 => (hvec k h1 h9).2)
    have hframe := (Frame.pushed hp).transRegisters (.setEntryCcr e s1 target)
    have hflagX : s1.flagX = s.flagX := by
      obtain ⟨_, rfl⟩ := hp.registers
      rfl
    obtain ⟨hret, hy, hx, ha, hb, hccr⟩ := hp.registers_stacked
    exact ⟨_, takeException_eq_next.mpr ⟨s1, target, hstack, hword1, rfl⟩, hp.sp, rfl, hret, hy, hx,
      ha, hb, hccr, entryCcr_flagI e _, hflagX ▸ entryCcr_flagX e _, hframe⟩

/-! ### The return (R407) -/

/-- A pull where SP has risen by `n` above that of `s`, with the memory of `s`. -/
theorem pullWord_above {s t : State} {n w : Word} (hsp : t.sp = s.sp + n) (hm : t.mem = s.mem)
    (hl : t.launch = s.launch) (h : HasWord s (s.sp + n) w) :
    pullWord t = .next (w, t.setSp (s.sp + (n + 2))) := by
  rw [← add_assoc, ← hsp]
  exact pullWord_eq_next.mpr ⟨(hasWord_congr hl hm).mpr (hsp ▸ h), rfl⟩

/-- The return from nine bytes that stand at SP. -/
theorem returnFromException_of_stacked {s : State} {ccr a b : Byte} {x y target : Word}
    (hccr : HasByte s s.sp ccr) (hb : HasByte s (s.sp + 1) b) (ha : HasByte s (s.sp + 2) a)
    (hx : HasWord s (s.sp + 3) x) (hy : HasWord s (s.sp + 5) y)
    (hpc : HasWord s (s.sp + 7) target) :
    returnFromException s = .next
      { s.writeCcr ccr with a := a, b := b, x := x, y := y, sp := s.sp + 9, pc := target } := by
  have hba : HasWord s (s.sp + 1) (mkWord b a) := by
    refine ⟨(hiByte_mkWord b a).symm ▸ hb, ?_⟩
    rwa [loByte_mkWord, add_assoc]
  refine returnFromException_eq_next.mpr ⟨ccr, mkWord b a, x, y, target, _, _, _, _, _,
    pullByte_eq_next.mpr ⟨hccr, rfl⟩, pullWord_above rfl rfl rfl hba,
    pullWord_above rfl rfl rfl hx, pullWord_above rfl rfl rfl hy,
    pullWord_above rfl rfl rfl hpc, ?_⟩
  rw [hiByte_mkWord, loByte_mkWord]
  rfl

/-- `writeCCR` of the stacked byte undoes what the entry made of CCR: the entry clears no bit, so X is
set where the stacked byte has it set (R37). -/
theorem writeCcr_of_entryCcr {s : State} {e : ExceptionSource} {v : Byte}
    (h : s.ccr = entryCcr e v) : (s.writeCcr v).ccr = v := by
  rw [State.writeCcr_ccr, h, entryCcr]
  generalize (if e = .xirq then 0b01010000#8 else 0b00010000#8) = m
  have habs : (v ||| m) &&& v = v := by
    ext i hi
    cases hv : v[i] <;> simp [hv]
  rw [habs, ← BitVec.and_or_distrib_left]
  exact BitVec.and_allOnes

/-- Settles O60: the nine bytes stand where the return pulls them, and none changed since. -/
theorem exceptionReturnRestoresTheRegisters : Obligations.ExceptionReturnRestoresTheRegisters := by
  intro e returnTo s t _ h
  obtain ⟨s1, target, hp, rfl⟩ := pushed_of_takeException h
  obtain ⟨hret, hy, hx, ha, hb, hccr⟩ := hp.registers_stacked
  have hup : ∀ n : Word, s.sp - n = s1.sp + (9 - n) := fun n => by
    rw [hp.sp]
    exact (sub_add_sub_cancel s.sp 9 n).symm
  rw [hup] at hret hy hx ha hb
  have hreturn := returnFromException_of_stacked (s := (s1.setCcr (entryCcr e s1.ccr)).setPc target)
    (hp.sp ▸ hccr) hb ha hx hy hret
  have hsp : s1.sp + 9 = s.sp := by
    rw [hp.sp]
    exact sub_add_cancel s.sp 9
  obtain ⟨_, rfl⟩ := hp.registers
  exact ⟨_, hreturn, rfl, rfl, rfl, rfl, rfl, hsp, writeCcr_of_entryCcr rfl, rfl, rfl, rfl⟩

end Sys2Proof.Machine
end
